-- ==== Sys2Proof/Word.lean ====
section
/-! DEFINITION. The widths the spec fixes (00_scope.md R10, R11): the byte, the nibble, the operation word. -/

namespace Sys2Proof

/-- The input unit and the accumulator's width (R10, R11): an unsigned value of 8 bits. -/
abbrev Byte := BitVec 8

/-- A 4-bit value decoded from one hex digit (R16), and the width of the cause code (R31). -/
abbrev Nibble := BitVec 4

/-- The operation word of one step, the state code above the input byte (30_encoding.md R84). -/
abbrev OpWord := BitVec 10

/-- A byte sequence: a finite list of bytes, the first received first (R12, R51). -/
abbrev ByteSeq := List Byte

end Sys2Proof
end

