-- ==== Sys2Proof/Config.lean ====
section
/-! DEFINITION. The fixed constants (00_scope.md R8), the configuration record `Cfg` with the nine
parameters (R7), and the reference instantiation REF (R7, 95_test_vectors.md section 0). -/

namespace Sys2Proof

/-- The label/value delimiter (R8, R74). PRESUMED (log 11): the ASCII code; unsafe if the wire is not ASCII. -/
def TAB : Byte := 0x09

/-- The first byte of a field terminator (R8, R74). PRESUMED (log 11): the ASCII code; unsafe if the wire is not ASCII. -/
def CR : Byte := 0x0D

/-- The second byte of a field terminator (R8, R74). PRESUMED (log 11): the ASCII code; unsafe if the wire is not ASCII. -/
def LF : Byte := 0x0A

/-- The reserved label that ends a record: the eight ASCII bytes of `Checksum` (R8).
PRESUMED (log 11): unsafe if the wire is not ASCII. -/
def CK_LABEL : ByteSeq := [0x43, 0x68, 0x65, 0x63, 0x6B, 0x73, 0x75, 0x6D]

/-- A capacity parameter: a natural number or UNBOUNDED (R7). -/
inductive Capacity where
  /-- `UNBOUNDED`: the buffer has no limit and its overflow case never fires (R7). -/
  | unbounded
  /-- The buffer holds at most `n` elements (R7). -/
  | atMost (n : Nat)
deriving DecidableEq, Repr

/-- The configuration record (R7). It is static while the core runs (R283). The spec leaves these values
OPEN or gives a default, so every claim is made for all of them. -/
structure Cfg where
  /-- `HEX_MARKER`: the byte that begins a HEX frame. -/
  hexMarker : Byte
  /-- `HEX_TERMINATOR`: the byte that ends a HEX frame. -/
  hexTerminator : Byte
  /-- `HEX_CK_TARGET`: the value the decoded payload bytes of a valid HEX frame sum to. -/
  hexCkTarget : Byte
  /-- `HEX_LEADING_NIBBLE`: whether a HEX payload starts with a lone digit. -/
  hexLeadingNibble : Bool := false
  /-- `CHECKSUM_SEED`: the value a text record's sum starts from. -/
  checksumSeed : Byte := 0x00
  /-- `MAX_LABEL`: the capacity of `lbuf`. -/
  maxLabel : Capacity
  /-- `MAX_VALUE`: the capacity of `vbuf`. -/
  maxValue : Capacity
  /-- `MAX_FIELDS`: the capacity of the record. -/
  maxFields : Capacity
  /-- `MAX_HEX`: the capacity of `hbuf`. -/
  maxHex : Capacity
deriving DecidableEq, Repr

/-- The reference instantiation REF of R7. It is no claim about a device: the spec uses it for its test vectors, and
the model for the configuration at reset and for the table's words (DESIGN CHOICE, log 2 and log 8; unsafe where a
claim rests on these values). -/
def Cfg.ref : Cfg where
  hexMarker := 0x3A
  hexTerminator := 0x0A
  hexCkTarget := 0x55
  hexLeadingNibble := false
  checksumSeed := 0x00
  maxLabel := .atMost 16
  maxValue := .atMost 33
  maxFields := .atMost 32
  maxHex := .atMost 64

end Sys2Proof
end

