-- ==== Sys2Proof/Machine/ByteClass.lean ====
section
/-! DEFINITION. Hex digits (30_encoding.md R75), printable bytes (R77) and the three class functions (R76). -/

namespace Sys2Proof

/-- Whether a byte is in HEXDIG: `0`-`9`, `A`-`F`, `a`-`f` (R75). PRESUMED (log 11): the ASCII codes and both cases. -/
def isHexDigit (b : Byte) : Bool :=
  (0x30 ≤ b.toNat && b.toNat ≤ 0x39) || (0x41 ≤ b.toNat && b.toNat ≤ 0x46) || (0x61 ≤ b.toNat && b.toNat ≤ 0x66)

/-- Whether a byte is printable ASCII, 0x20 to 0x7E (R77). PRESUMED (log 11): the printable range. -/
def isPrintable (b : Byte) : Bool :=
  0x20 ≤ b.toNat && b.toNat ≤ 0x7E

/-- The classes of `icls`, used in IDLE (R76). -/
inductive IdleClass where
  | mark
  | print
  | skip
deriving DecidableEq, Repr

/-- The classes of `tcls`, used in READING_LABEL and READING_VALUE (R76). -/
inductive TextClass where
  | tab
  | cr
  | lf
  | data
deriving DecidableEq, Repr

/-- The classes of `hcls`, used in READING_HEX (R76). -/
inductive HexClass where
  | hterm
  | mark
  | dig
  | junk
deriving DecidableEq, Repr

/-- `icls(b)` (R76): the marker first, then the printable bytes, then the rest. -/
def icls (cfg : Cfg) (b : Byte) : IdleClass :=
  if b = cfg.hexMarker then .mark
  else if isPrintable b then .print
  else .skip

/-- `tcls(b)` (R76): the three structural bytes; every other byte, the HEX marker among them, is data. -/
def tcls (b : Byte) : TextClass :=
  if b = TAB then .tab
  else if b = CR then .cr
  else if b = LF then .lf
  else .data

/-- `hcls(b)` (R76): the terminator is tested first, then the marker, then the digits. -/
def hcls (cfg : Cfg) (b : Byte) : HexClass :=
  if b = cfg.hexTerminator then .hterm
  else if b = cfg.hexMarker then .mark
  else if isHexDigit b then .dig
  else .junk

end Sys2Proof
end

