-- ==== Sys2Proof/Syntax.lean ====
section
/-! DEFINITION. The states of the Frame Decoder and the 21 byte-triggered transitions, which are the instruction set
(00_scope.md R3, 30_encoding.md R79): one constructor per row of opcode_table.json. -/

namespace Sys2Proof

/-- The four states of the state register (10_state.md R20). -/
inductive St where
  | idle
  | readingLabel
  | readingValue
  | readingHex
deriving DecidableEq, Repr

/-- The transitions (R79, rows 1 to 21). A row whose class is one byte takes no operand; every other row carries the
input byte `b` of its step. -/
inductive Instr where
  /-- IDLE.MARK, row 1 (43_hex_frame_detector.md R171). -/
  | idleMark
  /-- IDLE.PRINT, row 2 (44_frame_decoder.md R210). -/
  | idlePrint (b : Byte)
  /-- IDLE.SKIP, row 3 (44_frame_decoder.md R211). -/
  | idleSkip (b : Byte)
  /-- LBL.TAB, row 4 (41_field_buffer.md R121). -/
  | lblTab
  /-- LBL.DATA, row 5 (41_field_buffer.md R122). -/
  | lblData (b : Byte)
  /-- LBL.TERM, row 6 (41_field_buffer.md R123). -/
  | lblTerm (b : Byte)
  /-- VAL.DATA, row 7 (42_record_assembler.md R143). -/
  | valData (b : Byte)
  /-- VAL.CR, row 8 (42_record_assembler.md R144). -/
  | valCr
  /-- VAL.BAD, row 9 (42_record_assembler.md R145). -/
  | valBad (b : Byte)
  /-- VAL.LF, row 10 (42_record_assembler.md R146). -/
  | valLf
  /-- VAL.NOLF, row 11 (42_record_assembler.md R147). -/
  | valNolf (b : Byte)
  /-- CK.BYTE, row 12 (42_record_assembler.md R149). -/
  | ckByte (b : Byte)
  /-- CK.CR, row 13 (42_record_assembler.md R150). -/
  | ckCr
  /-- CK.BAD, row 14 (42_record_assembler.md R151). -/
  | ckBad (b : Byte)
  /-- CK.LF, row 15 (42_record_assembler.md R152). -/
  | ckLf
  /-- CK.NOLF, row 16 (42_record_assembler.md R153). -/
  | ckNolf (b : Byte)
  /-- HEX.TERM, row 17 (43_hex_frame_detector.md R174). -/
  | hexTerm
  /-- HEX.MARK, row 18 (43_hex_frame_detector.md R175). -/
  | hexMark
  /-- HEX.DIGIT, row 19 (43_hex_frame_detector.md R177). -/
  | hexDigit (b : Byte)
  /-- HEX.JUNK, row 20 (43_hex_frame_detector.md R178). -/
  | hexJunk (b : Byte)
  /-- HEX.SKIP, row 21 (43_hex_frame_detector.md R179). -/
  | hexSkip (b : Byte)
deriving DecidableEq, Repr

end Sys2Proof
end

