-- ==== Sys2Proof/Machine/Rows.lean ====
section
/-! DEFINITION. The state, guard and class columns of the transition map (30_encoding.md R79). -/

namespace Sys2Proof

/-- The sub-state elements a guard of R79 tests: `crs`, `is_ck`, `vlen = len(vbuf)` and `hbad`. -/
structure Guard where
  crs : Bool := false
  isCk : Bool := false
  vlen : Nat := 0
  hbad : Bool := false
deriving DecidableEq, Repr

/-- The state column of R79. -/
def Instr.st : Instr → St
  | .idleMark | .idlePrint _ | .idleSkip _ => .idle
  | .lblTab | .lblData _ | .lblTerm _ => .readingLabel
  | .valData _ | .valCr | .valBad _ | .valLf | .valNolf _ => .readingValue
  | .ckByte _ | .ckCr | .ckBad _ | .ckLf | .ckNolf _ => .readingValue
  | .hexTerm | .hexMark | .hexDigit _ | .hexJunk _ | .hexSkip _ => .readingHex

/-- The guard column of R79; an element a row does not test is left free. -/
def Instr.guardHolds (g : Guard) : Instr → Bool
  | .idleMark | .idlePrint _ | .idleSkip _ => true
  | .lblTab | .lblData _ | .lblTerm _ => true
  | .valData _ | .valCr | .valBad _ => !g.isCk && !g.crs
  | .valLf | .valNolf _ => !g.isCk && g.crs
  | .ckByte _ => g.isCk && g.vlen == 0
  | .ckCr | .ckBad _ => g.isCk && g.vlen == 1 && !g.crs
  | .ckLf | .ckNolf _ => g.isCk && g.crs
  | .hexTerm | .hexMark => true
  | .hexDigit _ | .hexJunk _ => !g.hbad
  | .hexSkip _ => g.hbad

/-- The class column of R79, for the byte the instruction carries; a row whose class is one byte carries none. -/
def Instr.classHolds (cfg : Cfg) : Instr → Bool
  | .idlePrint b => icls cfg b == .print
  | .idleSkip b => icls cfg b == .skip
  | .lblData b | .valData b => tcls b == .data
  | .lblTerm b => tcls b == .cr || tcls b == .lf
  | .valBad b => tcls b == .tab || tcls b == .lf
  | .valNolf b | .ckNolf b => tcls b != .lf
  | .ckBad b => tcls b != .cr
  | .hexDigit b => hcls cfg b == .dig
  | .hexJunk b => hcls cfg b == .junk
  | .hexSkip b => hcls cfg b == .dig || hcls cfg b == .junk
  | .ckByte _ => true
  | .idleMark | .lblTab | .valCr | .valLf | .ckCr | .ckLf | .hexTerm | .hexMark => true

end Sys2Proof
end

