-- ==== Sys2Proof/WellFormed.lean ====
section
/-! DEFINITION. Well-formed configurations (00_scope.md R9), well-formed instructions, and where a row of the transition map
applies (30_encoding.md R79). -/

namespace Sys2Proof

/-- `UNBOUNDED` meets every lower bound (R9). -/
def Capacity.atLeast (k : Nat) : Capacity → Bool
  | .unbounded => true
  | .atMost n => decide (k ≤ n)

/-- The conditions under which a configuration is admitted (R9); any other configuration is refused (R81). -/
abbrev Cfg.Admitted (cfg : Cfg) : Prop :=
  (cfg.hexMarker ≠ TAB ∧ cfg.hexMarker ≠ CR ∧ cfg.hexMarker ≠ LF ∧ isHexDigit cfg.hexMarker = false) ∧
  (isHexDigit cfg.hexTerminator = false ∧ cfg.hexTerminator ≠ cfg.hexMarker) ∧
  cfg.maxLabel.atLeast 8 = true ∧
  cfg.maxValue.atLeast 1 = true ∧
  cfg.maxFields.atLeast 1 = true ∧
  cfg.maxHex.atLeast (if cfg.hexLeadingNibble then 1 else 2) = true

/-- A well-formed instruction carries a byte of its row's class (R79). -/
abbrev Instr.wellFormed (cfg : Cfg) (i : Instr) : Bool := i.classHolds cfg

/-- A row of R79 applies: its state, its guard and its class all hold. -/
def Instr.rowApplies (cfg : Cfg) (st : St) (g : Guard) (i : Instr) : Bool :=
  i.st == st && i.guardHolds g && i.wellFormed cfg

/-- The guard values the core can reach in each state: 10_state.md R33 fixes `crs = 0` outside READING_VALUE, `hbad = 0`
outside READING_HEX, and `vlen <= 1` in the Checksum field with `crs = 1` only after its one byte. -/
abbrev Guard.Reachable (st : St) (g : Guard) : Prop :=
  (st ≠ .readingValue → g.crs = false) ∧
  (st ≠ .readingHex → g.hbad = false) ∧
  (st = .readingValue → g.isCk = true → g.vlen ≤ 1 ∧ (g.crs = true → g.vlen = 1))

end Sys2Proof
end

