-- ==== Sys2Proof/Machine/State.lean ====
section
/-! DEFINITION. The machine's state (10_state.md R20 to R31), its inputs, its outcomes, and the state after reset
(70_reset_and_hazards.md R270). -/

namespace Sys2Proof.Machine

/-- One field of a record: a label and its raw value (00_scope.md R12). -/
structure Field where
  label : ByteSeq
  value : ByteSeq
deriving DecidableEq, Repr

/-- A record: fields in the order in which each label was first inserted (00_scope.md R12, 10_state.md R25). -/
abbrev Record := List Field

/-- A completed unit, the value `feed` returns (00_scope.md R14, R16). -/
inductive OutUnit where
  /-- A text record whose checksum resolved to zero. -/
  | record (r : Record)
  /-- A HEX frame: its raw payload digits, without marker and terminator (43_hex_frame_detector.md R176). -/
  | hexFrame (h : ByteSeq)
deriving DecidableEq, Repr

/-- One rising edge of the clock as the input ports show it (44_frame_decoder.md R200). `in_valid` is that `offers` is not
empty; two or more offered bytes are two feeders in one step, which the spec refuses (70_reset_and_hazards.md R281).
`cfg` is `some c` when the port shows `c` from this edge on and `none` when it shows what it showed before.
DESIGN CHOICE (log 1): this form of the ports is the model's. -/
structure Edge where
  rst : Bool := false
  offers : List Byte := []
  cfg : Option Cfg := none
deriving DecidableEq, Repr

/-- The state of the core and of its inputs. The field names, `Bool` for one bit and a named type for `st`: DESIGN CHOICE
(log 12). -/
structure State where
  /-- The static configuration the port `cfg` shows (00_scope.md R7, 44_frame_decoder.md R200). -/
  cfg : Cfg
  /-- The state register (R20). -/
  st : St
  /-- CR seen (R21). -/
  crs : Bool
  /-- The Checksum Accumulator (R22). -/
  acc : Byte
  /-- The label half of the Field Buffer (R23). -/
  lbuf : ByteSeq
  /-- The value half of the Field Buffer (R24). -/
  vbuf : ByteSeq
  /-- `rec`, the in-progress record (R25). -/
  record : Record
  /-- The raw payload of the HEX frame in progress (R26). -/
  hbuf : ByteSeq
  /-- The high nibble of an incomplete digit pair (R27). -/
  hnib : Nibble
  /-- High nibble pending (R28). -/
  hph : Bool
  /-- The HEX frame in progress is already invalid (R29). -/
  hbad : Bool
  /-- The output register's valid bit (R30). -/
  outValid : Bool
  /-- The output register's unit (R30). -/
  outUnit : Option OutUnit
  /-- The diagnostic port: the last step discarded a unit (R31). -/
  dbgDrop : Bool
  /-- The diagnostic port: the cause code (R31, 60_exceptions.md R242). -/
  dbgCause : BitVec 4
  /-- The edges still to come, the next one first: the MODEL's own field for the input ports and the input stream
  (44_frame_decoder.md R200, 20_memory.md R50). DESIGN CHOICE (log 1). -/
  input : List Edge
deriving DecidableEq, Repr

/-- The faults of the machine: none. THE CORE raises no exception, trap or fault, and no input byte and no state makes it
stop (60_exceptions.md R240). Safe: no step of the model can end in a fault (log 9). -/
inductive Fault where
deriving DecidableEq, Repr

/-- The cases to which the model gives no meaning. -/
inductive Refusal where
  /-- Raised by `exec` for an instruction that has no meaning yet; no arm raises it. Safe. -/
  | notModelled (mnemonic : String)
  /-- Raised by every meaning and every edge under a configuration that breaks 00_scope.md R9: refused as a whole (R81,
  93_implementation_defined.md I7). Safe: the spec gives it no step. -/
  | configRefused
  /-- Raised by an edge without reset at which the configuration changes (70_reset_and_hazards.md R283, I8). Safe: the spec
  refuses it. -/
  | configChanged
  /-- Raised by every meaning, and by every edge without reset, in a state that breaks 10_state.md R33 or holds a value that
  file's table calls not legal (I10, I15). Safe: no such state is reached from reset. -/
  | invariantBroken
  /-- Raised by an edge at which two feeders offer a byte (20_memory.md R60, 70_reset_and_hazards.md R281, I11). Safe: the
  spec refuses it. -/
  | twoBytesInOneStep
  /-- Raised by a meaning whose row of 30_encoding.md R79 does not apply in the state: the spec gives the row an effect only
  where the dispatch selects it (R201). Safe: no step runs such an instruction (log 7). -/
  | rowNotSelected
deriving DecidableEq, Repr

/-- The outcome of a meaning or of a step. -/
abbrev Result := Host.Outcome State Fault Refusal

/-- Every element of the core at its reset value (70_reset_and_hazards.md R270). The configuration and the edges to come are
inputs, which reset does not change (R273). -/
def State.resetWith (cfg : Cfg) (input : List Edge) : State where
  cfg := cfg
  st := .idle
  crs := false
  acc := 0x00
  lbuf := []
  vbuf := []
  record := []
  hbuf := []
  hnib := 0x0
  hph := false
  hbad := false
  outValid := false
  outUnit := none
  dbgDrop := false
  dbgCause := 0x0
  input := input

/-- The machine right after reset (R270, R271). The configuration is the reference instantiation (DESIGN CHOICE, log 2;
unsafe for a claim that rests on its values) and no edge is offered yet (DESIGN CHOICE, log 1). -/
def State.reset : State := State.resetWith Cfg.ref []

end Sys2Proof.Machine
end

