-- ==== Sys2Proof/Machine/Operands.lean ====
section
/-! DEFINITION. What the transitions read: buffer room, the value of a hex digit, digit pairs, the decoded payload, and the
guard values of a state. -/

namespace Sys2Proof.Machine

/-- Whether a buffer that holds `len` elements has room for one more: the test `len < MAX` of R122, R141, R143 and R177.
With `UNBOUNDED` it always has (00_scope.md R7). -/
def hasRoom (cap : Capacity) (len : Nat) : Bool :=
  match cap with
  | .unbounded => true
  | .atMost n => decide (len < n)

/-- Whether a length is within a capacity (10_state.md, the legal values of the summary table). -/
def within (cap : Capacity) (len : Nat) : Bool :=
  match cap with
  | .unbounded => true
  | .atMost n => decide (len ≤ n)

/-- `zext_8(v)`: a nibble widened to a byte by zero bits at the top (00_scope.md R11). -/
def zext8 (v : Nibble) : Byte := v.setWidth 8

/-- `{hi, lo}`: the byte `hi * 16 + lo` (00_scope.md R11). The first digit of a pair is the high nibble (20_memory.md R52;
PRESUMED by the spec, log 11). -/
def pairByte (hi lo : Nibble) : Byte := hi ++ lo

/-- `hexval(b)`, the 4-bit value of a hex digit (30_encoding.md R75). It is defined only on HEXDIG; HEX.DIGIT, its only
user, carries a byte of HEXDIG, and what it gives elsewhere is used by nothing (log 14). -/
def hexval (b : Byte) : Nibble :=
  if 0x30 ≤ b.toNat ∧ b.toNat ≤ 0x39 then BitVec.ofNat 4 (b.toNat - 0x30)
  else if 0x41 ≤ b.toNat ∧ b.toNat ≤ 0x46 then BitVec.ofNat 4 (b.toNat - 0x41 + 10)
  else BitVec.ofNat 4 (b.toNat - 0x61 + 10)

/-- `pairs(P)`: the bytes of the digit pairs of `P`, high digit first; an unpaired digit decodes to nothing
(43_hex_frame_detector.md R172). -/
def pairs : ByteSeq → ByteSeq
  | [] => []
  | [_] => []
  | d1 :: d2 :: rest => pairByte (hexval d1) (hexval d2) :: pairs rest

/-- `dec(P)`: the decoded payload (R172). With `HEX_LEADING_NIBBLE` the first digit is a byte of its own. R172 writes `P[0]`,
so the empty payload, which has no first digit, decodes to nothing (DEDUCED, log 14). -/
def dec (leadingNibble : Bool) (p : ByteSeq) : ByteSeq :=
  if leadingNibble then
    match p with
    | [] => []
    | d :: rest => zext8 (hexval d) :: pairs rest
  else pairs p

/-- The modulo-256 sum of a byte sequence (40_checksum_accumulator.md R101, 43_hex_frame_detector.md R172). -/
def byteSum : ByteSeq → Byte
  | [] => 0
  | b :: bs => b + byteSum bs

/-- `labels(r)`: the labels of a record, in order (00_scope.md R12). -/
def labels (r : Record) : List ByteSeq := r.map Field.label

/-- `lookup(r, l)`: the value of label `l`, or `none` (00_scope.md R12). -/
def lookup (r : Record) (l : ByteSeq) : Option ByteSeq :=
  match r with
  | [] => none
  | f :: rest => if f.label = l then some f.value else lookup rest l

end Sys2Proof.Machine
end

