-- ==== Sys2Proof/Machine/Flags.lean ====
section
/-! DEFINITION. The derived signals: `is_ck` (10_state.md R32), `ACC_VALID` (40_checksum_accumulator.md R106), `hex_valid`
(43_hex_frame_detector.md R173), `out_kind` (44_frame_decoder.md R206), `in_ready` (R200), and the guard values of a state. -/

namespace Sys2Proof.Machine

/-- `is_ck`: the label being read is exactly `CK_LABEL`, byte for byte and case-sensitive (R32). -/
def State.isCk (s : State) : Bool := s.lbuf == CK_LABEL

/-- `ACC_VALID`: the sum is zero (R106). -/
def State.accValid (s : State) : Bool := s.acc == 0x00

/-- `hex_valid`: only hex digits and no overflow, no unpaired digit, at least one decoded byte, and the sum at its target
(R173). -/
abbrev State.hexValid (s : State) : Prop :=
  s.hbad = false ∧ s.hph = false ∧ 1 ≤ s.hbuf.length ∧ s.acc = s.cfg.hexCkTarget

/-- The port `out_kind`: true when `out_unit` is a HexFrame, false otherwise (R200, R206). -/
def State.outKind (s : State) : Bool :=
  match s.outUnit with
  | some (.hexFrame _) => true
  | some (.record _) | none => false

/-- The port `in_ready`: constant 1, THE CORE accepts a byte at every edge (R200, 70_reset_and_hazards.md R284). -/
def State.inReady (_s : State) : Bool := true

/-- The guard values of a state (30_encoding.md R79). -/
def State.guard (s : State) : Guard where
  crs := s.crs
  isCk := s.isCk
  vlen := s.vbuf.length
  hbad := s.hbad

end Sys2Proof.Machine
end

