-- ==== Sys2Proof/Machine/Invariant.lean ====
section
/-! DEFINITION. The legal values of the state elements (10_state.md, summary table) and the invariants of R33. -/

namespace Sys2Proof.Machine

/-- R33, the case IDLE: nothing is in progress. -/
abbrev State.IdleShape (s : State) : Prop :=
  s.crs = false ∧ s.acc = 0x00 ∧ s.lbuf = [] ∧ s.vbuf = [] ∧ s.record = [] ∧ s.hbuf = [] ∧
  s.hph = false ∧ s.hnib = 0x0 ∧ s.hbad = false

/-- The part of R33 that READING_LABEL and READING_VALUE share: the HEX detector is at rest. -/
abbrev State.HexAtRest (s : State) : Prop :=
  s.hbuf = [] ∧ s.hph = false ∧ s.hnib = 0x0 ∧ s.hbad = false

/-- R33, the case READING_LABEL. -/
abbrev State.LabelShape (s : State) : Prop :=
  s.crs = false ∧ s.vbuf = [] ∧ s.HexAtRest

/-- R33, the case READING_VALUE. -/
abbrev State.ValueShape (s : State) : Prop :=
  s.HexAtRest ∧ (s.isCk = true → s.vbuf.length ≤ 1 ∧ (s.crs = true → s.vbuf.length = 1))

/-- R33, the case READING_HEX. -/
abbrev State.HexShape (s : State) : Prop :=
  s.crs = false ∧ s.lbuf = [] ∧ s.vbuf = [] ∧ s.record = [] ∧ (s.hph = false → s.hnib = 0x0)

/-- R33, every state: the capacities hold and the labels of the record are distinct. -/
abbrev State.WithinCapacity (s : State) : Prop :=
  within s.cfg.maxLabel s.lbuf.length = true ∧ within s.cfg.maxValue s.vbuf.length = true ∧
  within s.cfg.maxFields s.record.length = true ∧ within s.cfg.maxHex s.hbuf.length = true ∧
  (labels s.record).Nodup

/-- The legal values of 10_state.md's table that no width gives: `hbuf` holds hex digits only (R26) and `dbg_cause` no reserved
code (R31, 60_exceptions.md R242, 93_implementation_defined.md I15). -/
abbrev State.LegalValues (s : State) : Prop :=
  s.hbuf.all isHexDigit = true ∧ s.dbgCause.toNat ≤ 0xA

/-- R33 per value of `st`. -/
def State.shapeHolds (s : State) : Bool :=
  match s.st with
  | .idle => decide s.IdleShape
  | .readingLabel => decide s.LabelShape
  | .readingValue => decide s.ValueShape
  | .readingHex => decide s.HexShape

/-- A state to which the model gives a meaning: R33 for its `st`, and legal values (DEDUCED, log 3). -/
abbrev State.Legal (s : State) : Prop :=
  s.shapeHolds = true ∧ s.WithinCapacity ∧ s.LegalValues

/-- The instruction `i` may run in `s`: the configuration is admitted (00_scope.md R9), the state is legal (R33), and the
row of `i` applies (30_encoding.md R79). -/
abbrev Ready (i : Instr) (s : State) : Prop :=
  s.cfg.Admitted ∧ s.Legal ∧ i.rowApplies s.cfg s.st s.guard = true

end Sys2Proof.Machine
end

