-- ==== Sys2Proof/Machine/Ops.lean ====
section
/-! DEFINITION. The shared operations: the accumulator's (40_checksum_accumulator.md), the record store's `insert`
(42_record_assembler.md R141), `clear`, `discard`, `emit` and `report` (44_frame_decoder.md R204 to R207), and the frame of
one transition. `discard` stands where an ISA has the taking of an exception (60_exceptions.md R244); there is no return
from it (R245). -/

namespace Sys2Proof.Machine

/-- `ACC_SEED(b)` (R102). -/
def accSeed (cfg : Cfg) (b : Byte) : Byte := cfg.checksumSeed + b

/-- `ACC_ADD(b)`: the carry out of bit 7 is dropped (R103). -/
def accAdd (acc b : Byte) : Byte := acc + b

/-- `ACC_CLEAR` (R105). -/
def accClear : Byte := 0x00

/-- The discard causes (60_exceptions.md R242). -/
inductive Cause where
  | termInLabel
  | labelOverflow
  | badInValue
  | valueOverflow
  | crWithoutLf
  | ckValueTooLong
  | recordOverflow
  | checksumMismatch
  | hexInvalid
  | hexRestart
deriving DecidableEq, Repr

/-- The cause codes (R242). Code 0x0 is "none"; 0xB to 0xF are reserved and never written. -/
def causeCode : Cause → BitVec 4
  | .termInLabel => 0x1
  | .labelOverflow => 0x2
  | .badInValue => 0x3
  | .valueOverflow => 0x4
  | .crWithoutLf => 0x5
  | .ckValueTooLong => 0x6
  | .recordOverflow => 0x7
  | .checksumMismatch => 0x8
  | .hexInvalid => 0x9
  | .hexRestart => 0xA

/-- The record with the value of label `l` replaced, every field at its position (R141). Labels are distinct (R25), so one
field at most changes. -/
def overwrite (r : Record) (l v : ByteSeq) : Record :=
  r.map (fun f => if f.label = l then { f with value := v } else f)

/-- `insert(rec, l, v)`: overwrite a label that is there, append a new one while there is room, else overflow (`none`)
(R141). -/
def insertField (cap : Capacity) (r : Record) (l v : ByteSeq) : Option Record :=
  if l ∈ labels r then some (overwrite r l v)
  else if hasRoom cap r.length then some (r ++ [⟨l, v⟩])
  else none

/-- The output register and the diagnostic port of a step that emits and reports nothing (R206, R207); `emit` and `report`
write them over. -/
def startStep (s : State) : State :=
  { s with outValid := false, outUnit := none, dbgDrop := false, dbgCause := 0x0 }

/-- `clear()`: reset the in-progress unit; `st`, the output register and the diagnostic port are not written (R204). -/
def clear (s : State) : State :=
  { s with
    lbuf := [], vbuf := [], crs := false, record := [], acc := accClear,
    hbuf := [], hnib := 0x0, hph := false, hbad := false }

/-- `report(cause)` (R207). -/
def report (c : Cause) (s : State) : State :=
  { s with dbgDrop := true, dbgCause := causeCode c }

/-- `emit(u)` (R206). -/
def emit (u : OutUnit) (s : State) : State :=
  { s with outValid := true, outUnit := some u }

/-- `discard(cause)`: resynchronize (R205). -/
def discard (c : Cause) (s : State) : State :=
  report c { clear s with st := .idle }

/-- The end of a step that completed a unit: `emit(u)`, `clear()`, `st <- IDLE` (R152, R174). -/
def complete (u : OutUnit) (s : State) : State :=
  { clear (emit u s) with st := .idle }

/-- The frame of every transition: where the instruction may run, its effect on the state with the output register and the
diagnostic port at rest; elsewhere the refusal the spec names (R81, R33, 93_implementation_defined.md I7, I10), or that the
row is not selected (log 7). All reads see the state before the step and all writes take effect together (00_scope.md R13):
no effect reads the four elements `startStep` writes. -/
def transition (i : Instr) (effect : State → State) (s : State) : Result :=
  if s.cfg.Admitted then
    if s.Legal then
      if i.rowApplies s.cfg s.st s.guard = true then .next (effect (startStep s))
      else .refused .rowNotSelected
    else .refused .invariantBroken
  else .refused .configRefused

end Sys2Proof.Machine
end

