-- ==== Sys2Proof/Machine/Checksum.lean ====
section
/-! DEFINITION. The transitions of state READING_VALUE in the Checksum field, `is_ck` true (42_record_assembler.md R148 to
R153). -/

namespace Sys2Proof.Machine

/-- CK.BYTE: the one checksum byte, taken whatever its class; the last byte of the window (R149). -/
def execCkByte (b : Byte) (s : State) : Result :=
  transition (.ckByte b) (fun t => { t with vbuf := [b], acc := accAdd t.acc b }) s

/-- CK.CR: the CR after the checksum byte, outside the window (R150). -/
def execCkCr (s : State) : Result := transition .ckCr (fun t => { t with crs := true }) s

/-- CK.BAD: a second byte where the CR should be discards the record (R151). -/
def execCkBad (b : Byte) (s : State) : Result := transition (.ckBad b) (discard .ckValueTooLong) s

/-- What CK.LF does: flush the Checksum field, then validate, and emit or discard; the overflow is tested first (R152,
60_exceptions.md R243). -/
def finishRecord (s : State) : State :=
  match insertField s.cfg.maxFields s.record s.lbuf s.vbuf with
  | none => discard .recordOverflow s
  | some r => if s.accValid then complete (.record r) s else discard .checksumMismatch s

/-- CK.LF (R152). -/
def execCkLf (s : State) : Result := transition .ckLf finishRecord s

/-- CK.NOLF: a CR after the checksum byte not followed by LF discards the record (R153). -/
def execCkNolf (b : Byte) (s : State) : Result := transition (.ckNolf b) (discard .crWithoutLf) s

end Sys2Proof.Machine
end

