-- ==== Sys2Proof/Machine/Idle.lean ====
section
/-! DEFINITION. The transitions of state IDLE (43_hex_frame_detector.md R171, 44_frame_decoder.md R210, R211). -/

namespace Sys2Proof.Machine

/-- Begin a HEX frame; shared by IDLE.MARK (R171) and HEX.MARK (R175). The marker is neither stored nor summed. -/
def beginHexFrame (s : State) : State :=
  { s with hbuf := [], hnib := 0x0, hph := false, hbad := false, acc := accClear, st := .readingHex }

/-- IDLE.MARK (R171). -/
def execIdleMark (s : State) : Result := transition .idleMark beginHexFrame s

/-- What IDLE.PRINT does: the byte is the first of a new record's first label and of its checksum window (R210). -/
def startRecord (b : Byte) (s : State) : State :=
  { s with
    record := [], lbuf := [b], vbuf := [], crs := false, acc := accSeed s.cfg b, st := .readingLabel }

/-- IDLE.PRINT (R210). -/
def execIdlePrint (b : Byte) (s : State) : Result := transition (.idlePrint b) (startRecord b) s

/-- IDLE.SKIP: no state change (R211). -/
def execIdleSkip (b : Byte) (s : State) : Result := transition (.idleSkip b) (fun t => t) s

end Sys2Proof.Machine
end

