-- ==== Sys2Proof/Machine/Hex.lean ====
section
/-! DEFINITION. The transitions of state READING_HEX (43_hex_frame_detector.md R174 to R179). -/

namespace Sys2Proof.Machine

/-- What HEX.TERM does: validate, and emit or discard (R174). -/
def finishHexFrame (s : State) : State :=
  if s.hexValid then complete (.hexFrame s.hbuf) s else discard .hexInvalid s

/-- HEX.TERM (R174). -/
def execHexTerm (s : State) : Result := transition .hexTerm finishHexFrame s

/-- HEX.MARK: the stale frame is reported as discarded and a new one begins (R175). -/
def execHexMark (s : State) : Result :=
  transition .hexMark (fun t => beginHexFrame (report .hexRestart t)) s

/-- What HEX.DIGIT does with a digit of value `d`: a lone leading digit is summed alone, the first digit of a pair is held,
the second completes a byte that is summed; an overflow marks the frame bad (R177). `len(hbuf)` is read before the step. -/
def takeDigit (b : Byte) (s : State) : State :=
  let d := hexval b
  if hasRoom s.cfg.maxHex s.hbuf.length then
    if s.cfg.hexLeadingNibble = true ∧ s.hbuf.length = 0 then
      { s with hbuf := s.hbuf ++ [b], acc := accAdd s.acc (zext8 d) }
    else if s.hph = false then
      { s with hbuf := s.hbuf ++ [b], hnib := d, hph := true }
    else
      { s with hbuf := s.hbuf ++ [b], acc := accAdd s.acc (pairByte s.hnib d), hnib := 0x0, hph := false }
  else { s with hbad := true }

/-- HEX.DIGIT (R177). -/
def execHexDigit (b : Byte) (s : State) : Result := transition (.hexDigit b) (takeDigit b) s

/-- HEX.JUNK: the frame is marked bad and consumed to its terminator (R178). -/
def execHexJunk (b : Byte) (s : State) : Result :=
  transition (.hexJunk b) (fun t => { t with hbad := true }) s

/-- HEX.SKIP: no state change (R179). -/
def execHexSkip (b : Byte) (s : State) : Result := transition (.hexSkip b) (fun t => t) s

end Sys2Proof.Machine
end

