-- ==== Sys2Proof/Machine/Label.lean ====
section
/-! DEFINITION. The transitions of state READING_LABEL (41_field_buffer.md R121 to R123). -/

namespace Sys2Proof.Machine

/-- What LBL.TAB does: the label is kept, since it names the field being read (R121). -/
def startValue (s : State) : State :=
  { s with acc := accAdd s.acc TAB, vbuf := [], crs := false, st := .readingValue }

/-- LBL.TAB (R121). -/
def execLblTab (s : State) : Result := transition .lblTab startValue s

/-- What LBL.DATA does: one label byte, or an overflow (R122). -/
def appendLabel (b : Byte) (s : State) : State :=
  if hasRoom s.cfg.maxLabel s.lbuf.length then
    { s with lbuf := s.lbuf ++ [b], acc := accAdd s.acc b }
  else discard .labelOverflow s

/-- LBL.DATA (R122). -/
def execLblData (b : Byte) (s : State) : Result := transition (.lblData b) (appendLabel b) s

/-- LBL.TERM: a terminator byte inside a label discards the record (R123). -/
def execLblTerm (b : Byte) (s : State) : Result := transition (.lblTerm b) (discard .termInLabel) s

end Sys2Proof.Machine
end

