-- ==== Sys2Proof/Machine/Value.lean ====
section
/-! DEFINITION. The transitions of state READING_VALUE in an ordinary field, `is_ck` false (42_record_assembler.md R143 to
R147). -/

namespace Sys2Proof.Machine

/-- What VAL.DATA does: one value byte, or an overflow (R143). -/
def appendValue (b : Byte) (s : State) : State :=
  if hasRoom s.cfg.maxValue s.vbuf.length then
    { s with vbuf := s.vbuf ++ [b], acc := accAdd s.acc b }
  else discard .valueOverflow s

/-- VAL.DATA (R143). -/
def execValData (b : Byte) (s : State) : Result := transition (.valData b) (appendValue b) s

/-- VAL.CR: the first byte of the terminator, in the checksum window (R144). -/
def execValCr (s : State) : Result :=
  transition .valCr (fun t => { t with crs := true, acc := accAdd t.acc CR }) s

/-- VAL.BAD: a TAB or a lone LF inside a value discards the record (R145). -/
def execValBad (b : Byte) (s : State) : Result := transition (.valBad b) (discard .badInValue) s

/-- What VAL.LF does: the field goes to the record, or overflows it (R146). -/
def flushField (s : State) : State :=
  match insertField s.cfg.maxFields s.record s.lbuf s.vbuf with
  | some r =>
    { s with
      record := r, acc := accAdd s.acc LF, lbuf := [], vbuf := [], crs := false, st := .readingLabel }
  | none => discard .recordOverflow s

/-- VAL.LF (R146). -/
def execValLf (s : State) : Result := transition .valLf flushField s

/-- VAL.NOLF: a CR not followed by LF discards the record (R147). -/
def execValNolf (b : Byte) (s : State) : Result := transition (.valNolf b) (discard .crWithoutLf) s

end Sys2Proof.Machine
end

