-- ==== Sys2Proof/Machine/Dispatch.lean ====
section
/-! DEFINITION. The dispatch of every instruction to its meaning, one arm per row of opcode_table.json. -/

namespace Sys2Proof.Machine

def exec (i : Instr) (s : State) : Host.Outcome State Fault Refusal :=
  match i with
  | .idleMark => Sys2Proof.Machine.execIdleMark s
  | .idlePrint b => Sys2Proof.Machine.execIdlePrint b s
  | .idleSkip b => Sys2Proof.Machine.execIdleSkip b s
  | .lblTab => Sys2Proof.Machine.execLblTab s
  | .lblData b => Sys2Proof.Machine.execLblData b s
  | .lblTerm b => Sys2Proof.Machine.execLblTerm b s
  | .valData b => Sys2Proof.Machine.execValData b s
  | .valCr => Sys2Proof.Machine.execValCr s
  | .valBad b => Sys2Proof.Machine.execValBad b s
  | .valLf => Sys2Proof.Machine.execValLf s
  | .valNolf b => Sys2Proof.Machine.execValNolf b s
  | .ckByte b => Sys2Proof.Machine.execCkByte b s
  | .ckCr => Sys2Proof.Machine.execCkCr s
  | .ckBad b => Sys2Proof.Machine.execCkBad b s
  | .ckLf => Sys2Proof.Machine.execCkLf s
  | .ckNolf b => Sys2Proof.Machine.execCkNolf b s
  | .hexTerm => Sys2Proof.Machine.execHexTerm s
  | .hexMark => Sys2Proof.Machine.execHexMark s
  | .hexDigit b => Sys2Proof.Machine.execHexDigit b s
  | .hexJunk b => Sys2Proof.Machine.execHexJunk b s
  | .hexSkip b => Sys2Proof.Machine.execHexSkip b s

end Sys2Proof.Machine
end

