-- ==== Sys2Proof/Decode.lean ====
section
/-! DEFINITION. The operation word (30_encoding.md R84), the decoder (44_frame_decoder.md R201), the encoder (R79, R84) and
the reading of a table word. -/

namespace Sys2Proof

/-- The 2-bit code of a state (10_state.md R20). -/
def St.code : St → BitVec 2
  | .idle => 0b00
  | .readingLabel => 0b01
  | .readingValue => 0b10
  | .readingHex => 0b11

/-- The state of a 2-bit code (10_state.md R20). -/
def St.ofCode (c : BitVec 2) : St :=
  if c = 0b00 then .idle
  else if c = 0b01 then .readingLabel
  else if c = 0b10 then .readingValue
  else .readingHex

/-- The operation word of one step: `w[9:8]` is the code of `st`, `w[7:0]` the input byte (R84). -/
def opWord (st : St) (b : Byte) : OpWord := st.code ++ b

/-- The state field of an operation word (R84). -/
def wordState (w : OpWord) : St := St.ofCode (w.extractLsb' 8 2)

/-- The byte field of an operation word (R84). -/
def wordByte (w : OpWord) : Byte := w.extractLsb' 0 8

/-- Dispatch (R201): the one transition rule for state `st`, guard values `g` and input byte `b`. The order of the tests is
that of R201, so every state, guard and byte has exactly one row (DEDUCED, log 10: outside the reachable guards R201 is
followed). -/
def select (cfg : Cfg) (st : St) (g : Guard) (b : Byte) : Instr :=
  match st with
  | .idle =>
    match icls cfg b with
    | .mark => .idleMark
    | .print => .idlePrint b
    | .skip => .idleSkip b
  | .readingLabel =>
    match tcls b with
    | .tab => .lblTab
    | .data => .lblData b
    | .cr | .lf => .lblTerm b
  | .readingValue =>
    if g.isCk = false then
      if g.crs = false then
        match tcls b with
        | .data => .valData b
        | .cr => .valCr
        | .tab | .lf => .valBad b
      else
        match tcls b with
        | .lf => .valLf
        | .tab | .cr | .data => .valNolf b
    else if g.vlen = 0 then .ckByte b
    else if g.crs = false then
      match tcls b with
      | .cr => .ckCr
      | .tab | .lf | .data => .ckBad b
    else
      match tcls b with
      | .lf => .ckLf
      | .tab | .cr | .data => .ckNolf b
  | .readingHex =>
    match hcls cfg b with
    | .hterm => .hexTerm
    | .mark => .hexMark
    | .dig => if g.hbad then .hexSkip b else .hexDigit b
    | .junk => if g.hbad then .hexSkip b else .hexJunk b

/-- Why a word is not decoded. -/
inductive DecodeError where
  /-- The configuration breaks 00_scope.md R9 and is refused as a whole (R81). Safe. -/
  | configRefused
  /-- The number does not fit in the 10 bits of an operation word (R84). Safe. -/
  | widerThanOperationWord
deriving DecidableEq, Repr

/-- The decoder, total on every number: an operation word and the guard values select exactly one row (R84, R201). -/
def decode (cfg : Cfg) (g : Guard) (w : Nat) : Except DecodeError Instr :=
  if cfg.Admitted then
    if w < 1024 then
      .ok (select cfg (wordState (BitVec.ofNat 10 w)) g (wordByte (BitVec.ofNat 10 w)))
    else .error .widerThanOperationWord
  else .error .configRefused

/-- The input byte of an instruction's step: the byte it carries, or the one byte of its row's class (R76, R79). -/
def Instr.byte (cfg : Cfg) : Instr → Byte
  | .idleMark | .hexMark => cfg.hexMarker
  | .hexTerm => cfg.hexTerminator
  | .lblTab => TAB
  | .valCr | .ckCr => CR
  | .valLf | .ckLf => LF
  | .idlePrint b | .idleSkip b | .lblData b | .lblTerm b => b
  | .valData b | .valBad b | .valNolf b => b
  | .ckByte b | .ckBad b | .ckNolf b => b
  | .hexDigit b | .hexJunk b | .hexSkip b => b

/-- The encoder: the operation word of an instruction, its row's state code above its byte (R79, R84). -/
def encode (cfg : Cfg) (i : Instr) : OpWord := opWord i.st (i.byte cfg)

/-- The guard values of the row an opcode-table word is read as. A table word holds no guard, so rows that share a word are
told apart only by sub-state elements outside it (R84). Every element takes its reset value, but for the two words that
the table gives as `match` to a row which those values do not select: 0x20A is read with `crs = 1` (VAL.LF) and 0x200 in
the Checksum field (CK.BYTE). DESIGN CHOICE (log 8); safe, the machine's own step never uses it. -/
def tableGuard (w : Nat) : Guard :=
  if w = 0x20A then { crs := true }
  else if w = 0x200 then { isCk := true }
  else {}

/-- The number an opcode-table word stands for: `w` cut to the table's bits, every bit above them 0. -/
def tableWord (nbits w : Nat) : Nat := w % 2 ^ nbits

/-- The instruction the decoder reads from a word of opcode_table.json, under the reference instantiation (R84). -/
def decodeTableWord (nbits w : Nat) : Option Instr :=
  match decode Cfg.ref (tableGuard (tableWord nbits w)) (tableWord nbits w) with
  | .ok i => some i
  | .error _ => none

end Sys2Proof
end

