-- ==== Sys2Proof/Machine/Fetch.lean ====
section
/-! DEFINITION. What one rising edge of the clock does before an instruction runs (44_frame_decoder.md R200): it takes the
next edge from the input, resets, holds, or finds the transition of the offered byte. -/

namespace Sys2Proof.Machine

/-- What an edge leads to. -/
inductive Fetched where
  /-- A byte was accepted: run this transition in this state. -/
  | run (i : Instr) (s : State)
  /-- No transition runs; this is the next state. -/
  | hold (s : State)
  /-- The edge has no meaning. -/
  | stop (r : Refusal)
deriving DecidableEq, Repr

/-- The edge at which nothing is asserted: what a step reads when no edge is left in the input, the waiting of
44_frame_decoder.md R213 (DEDUCED, log 13). -/
def idleEdge : Edge := {}

/-- The edge that offers one byte. -/
def byteEdge (b : Byte) : Edge := { offers := [b] }

/-- The state with other edges to come; the core's own elements are untouched (R200). -/
def withInput (es : List Edge) (s : State) : State := { s with input := es }

/-- An edge with `rst = 1`: every element takes its reset value, whatever the state, and an offered byte is not consumed
(70_reset_and_hazards.md R270, R272, R273). The configuration the port shows may be another one (R283) and must be admitted
(R274; DEDUCED, log 6). How a changed configuration comes with the edge: DESIGN CHOICE, log 5. -/
def resetEdge (e : Edge) (s : State) : Fetched :=
  if (e.cfg.getD s.cfg).Admitted then .hold (State.resetWith (e.cfg.getD s.cfg) s.input)
  else .stop .configRefused

/-- An edge with `rst = 0` (R200). A changed configuration is refused (R283; DEDUCED, log 5), so is a configuration that
breaks R9 (R81) and a state that breaks R33 (93_implementation_defined.md I10). With no byte nothing changes; with a byte
the dispatch of R201 selects the transition. -/
def runEdge (e : Edge) (s : State) : Fetched :=
  if e.cfg.getD s.cfg = s.cfg then
    if s.cfg.Admitted then
      if s.Legal then
        match e.offers with
        | [] => .hold s
        | b :: _ =>
          match decode s.cfg s.guard (opWord s.st b).toNat with
          | .ok i => .run i s
          | .error _ => .stop .configRefused
      else .stop .invariantBroken
    else .stop .configRefused
  else .stop .configChanged

/-- One edge. Two bytes offered at it are refused, with or without reset (20_memory.md R60, 70_reset_and_hazards.md R281;
DESIGN CHOICE for the edge with reset, log 4). -/
def onEdge (e : Edge) (s : State) : Fetched :=
  if 2 ≤ e.offers.length then .stop .twoBytesInOneStep
  else if e.rst then resetEdge e s
  else runEdge e s

/-- The next edge of the input, taken from it; an empty input is an idle edge. -/
def fetch (s : State) : Fetched :=
  match s.input with
  | [] => onEdge idleEdge s
  | e :: rest => onEdge e (withInput rest s)

/-- A state of the core in which the row of a table word is selected: its state code, and sub-state elements with the guard
values `g`, every other element of the unit in progress cleared so that the state is legal (R33). -/
def placeGuard (st : St) (g : Guard) (s : State) : State :=
  { clear s with
    st := st
    crs := g.crs
    lbuf := if g.isCk then CK_LABEL else []
    vbuf := List.replicate g.vlen 0x00
    hbad := g.hbad }

end Sys2Proof.Machine
end

