-- ==== Sys2Proof/Machine/Step.lean ====
section
/-! DEFINITION. One step of the machine, which is one rising edge of the clock (44_frame_decoder.md R200), and the placing of
a table word where the step finds its next instruction. -/

namespace Sys2Proof.Machine

/-- One rising edge: an accepted byte runs exactly one transition (R200, R201). -/
def step (s : State) : Host.Outcome State Fault Refusal :=
  match fetch s with
  | .run i t => exec i t
  | .hold t => .next t
  | .stop r => .refused r

/-- The state `s` with the operation of a table word placed for the very next step: the word's byte is the next one offered,
and the state register, the guard elements and the configuration are those under which the word is read (30_encoding.md R84;
DESIGN CHOICE, log 8). The unit in progress and the diagnostic port are put at rest, since a row runs only in a legal state. -/
def State.withFetchWord (s : State) (nbits w : Nat) : State :=
  { placeGuard (wordState (BitVec.ofNat 10 (tableWord nbits w))) (tableGuard (tableWord nbits w)) (startStep s) with
    cfg := Cfg.ref
    input := byteEdge (wordByte (BitVec.ofNat 10 (tableWord nbits w))) :: s.input }

end Sys2Proof.Machine
end

