-- ==== Sys2Proof/Machine/Stream.lean ====
section
/-! DEFINITION. `feed` of one byte (00_scope.md R14, 44_frame_decoder.md R200), `run` of a finite stream and the output of a
finite or infinite one (R212, 00_scope.md R6), all over the machine's one step. -/

namespace Sys2Proof.Machine

/-- `feed(byte)`: the step at an edge that offers one byte. Its return value is `out_unit` of the next state (R200). -/
def feed (s : State) (b : Byte) : Result :=
  step (withInput (byteEdge b :: s.input) s)

/-- `run(cfg, s0, bs)`: the final state and the units the steps emitted, in order (R212). -/
def run (s : State) : List Byte → Host.Outcome (State × List OutUnit) Fault Refusal
  | [] => .next (s, [])
  | b :: bs =>
    match feed s b with
    | .next t =>
      match run t bs with
      | .next (u, us) => .next (u, t.outUnit.toList ++ us)
      | .fault r => .fault r
      | .refused r => .refused r
    | .fault r => .fault r
    | .refused r => .refused r

/-- An input stream, finite or infinite (00_scope.md R6): what the environment feeds in the course of a whole run. An
infinite stream is no plain data, so it is an argument of the definitions below and never a part of `State` (log 18). -/
inductive InputStream where
  | finite (bs : List Byte)
  /-- The byte at each position, position 0 the first (20_memory.md R50). -/
  | infinite (byteAt : Nat → Byte)

/-- The finite prefix of a stream that holds its first `n` bytes; all of a finite stream that has fewer. -/
def InputStream.first (n : Nat) : InputStream → List Byte
  | .finite bs => bs.take n
  | .infinite byteAt => (List.range n).map byteAt

/-- The output of a stream, as the relation of a place to the unit there: the limit of the outputs of the finite prefixes
(R212). Place `k` holds `u` when the run of some finite prefix has `u` at place `k` of its units. -/
def outputAt (s : State) (stream : InputStream) (k : Nat) (u : OutUnit) : Prop :=
  ∃ n t us, run s (stream.first n) = .next (t, us) ∧ us[k]? = some u

end Sys2Proof.Machine
end

