-- ==== Sys2Proof/Machine/Wire.lean ====
section
/-! DEFINITION. The wire formats (30_encoding.md R70 to R72) as the macros of R83, and the record a well-formed text record
stands for. They say what an input stream holds; the machine's step uses none of them. -/

namespace Sys2Proof.Machine

/-- `FIELD(L, V)` (R71, R83). -/
def fieldBytes (f : Field) : ByteSeq := f.label ++ [TAB] ++ f.value ++ [CR, LF]

/-- `CKBYTE(S, seed)`: the checksum byte that makes seed, sum and byte congruent to 0 modulo 256 (R83,
40_checksum_accumulator.md R108). -/
def checkByte (seed : Byte) (s : ByteSeq) : Byte :=
  BitVec.ofNat 8 ((256 - (seed + byteSum s).toNat) % 256)

/-- The window of a text record before its checksum byte: `F_1 ++ ... ++ F_n ++ "Checksum" ++ [TAB]` (R70, R83). -/
def recordPreamble (fs : List Field) : ByteSeq := fs.flatMap fieldBytes ++ CK_LABEL ++ [TAB]

/-- `RECORD(F_1, ..., F_n)` (R70, R83). -/
def recordBytes (cfg : Cfg) (fs : List Field) : ByteSeq :=
  recordPreamble fs ++ [checkByte cfg.checksumSeed (recordPreamble fs)] ++ [CR, LF]

/-- `HEXSUM(B)` (R83). -/
def hexSum (cfg : Cfg) (bs : ByteSeq) : Byte := cfg.hexCkTarget - byteSum bs

/-- The upper-case hex digit of a nibble (R83). -/
def digitOf (v : Nibble) : Byte :=
  if v.toNat < 10 then BitVec.ofNat 8 (0x30 + v.toNat) else BitVec.ofNat 8 (0x41 + (v.toNat - 10))

/-- `hex2`: each byte as two upper-case hex digits, high digit first (R83). -/
def hex2 : ByteSeq → ByteSeq
  | [] => []
  | b :: bs => digitOf (b.extractLsb' 4 4) :: digitOf (b.extractLsb' 0 4) :: hex2 bs

/-- `HEXFRAME(B)` (R72, R83). -/
def hexFrameBytes (cfg : Cfg) (bs : ByteSeq) : ByteSeq :=
  [cfg.hexMarker] ++ hex2 (bs ++ [hexSum cfg bs]) ++ [cfg.hexTerminator]

/-- The distinct labels of a list of fields in order of first appearance (42_record_assembler.md R141). -/
def firstLabels : List Field → List ByteSeq
  | [] => []
  | f :: fs => f.label :: (firstLabels fs).filter (fun l => l != f.label)

/-- The last value a label is given in a list of fields (R141: last write wins). -/
def lastValue (l : ByteSeq) : List Field → Option ByteSeq
  | [] => none
  | f :: fs =>
    match lastValue l fs with
    | some v => some v
    | none => if f.label = l then some f.value else none

/-- The record that a list of fields assembles to: each label at its first place, with its last value (R141, R25). -/
def assembled (fs : List Field) : Record :=
  (firstLabels fs).map (fun l => ⟨l, (lastValue l fs).getD []⟩)

/-- A byte that is not structural (30_encoding.md R74): what a label or a value may hold (R71). -/
def isData (b : Byte) : Bool := tcls b == .data

/-- The fields may stand before the Checksum field of a record under a configuration (R70, R71): no structural byte in a
label or value, no label `Checksum`, every length within its capacity, room for every distinct label and the Checksum field,
and a first byte that starts a record in IDLE (44_frame_decoder.md R210). -/
def fieldsFit (cfg : Cfg) (fs : List Field) : Bool :=
  fs.all (fun f => f.label.all isData && f.value.all isData && f.label != CK_LABEL &&
    within cfg.maxLabel f.label.length && within cfg.maxValue f.value.length) &&
  within cfg.maxFields ((firstLabels fs).length + 1) &&
  match recordPreamble fs with
  | [] => false
  | b :: _ => icls cfg b == .print

end Sys2Proof.Machine
end

