-- ==== Sys2Proof/Safety.lean ====
section
/-! DEFINITION. What counts as a safe run: the environment keeps the contract of 70_reset_and_hazards.md section 3, and the
state keeps the invariants of 10_state.md section 3 and those the rules of the HEX payload and of the record imply. -/

namespace Sys2Proof.Machine

/-- An edge that keeps the contract: one feeder (70_reset_and_hazards.md R281), the configuration unchanged but under reset
(R283), and an admitted one (R274, 00_scope.md R9). -/
def edgeOk (cfg : Cfg) (e : Edge) : Prop :=
  e.offers.length ≤ 1 ∧ (e.rst = false → e.cfg.getD cfg = cfg) ∧ (e.cfg.getD cfg).Admitted

/-- Every edge to come keeps the contract, each under the configuration in force when it comes. -/
def inputOk (cfg : Cfg) : List Edge → Prop
  | [] => True
  | e :: rest => edgeOk cfg e ∧ inputOk (e.cfg.getD cfg) rest

/-- A state from which nothing is refused: an admitted configuration (R9), a legal state (10_state.md R33), and an
environment that keeps its contract. -/
def State.Safe (s : State) : Prop :=
  s.cfg.Admitted ∧ s.Legal ∧ inputOk s.cfg s.input

/-- The output register and the diagnostic port agree with themselves: a unit stands there exactly when `out_valid` is 1
(10_state.md R30), a cause exactly when `dbg_drop` is 1 (R31, 60_exceptions.md R242), and never both (44_frame_decoder.md
R207). -/
def State.OutputsAgree (s : State) : Prop :=
  s.outValid = s.outUnit.isSome ∧
  (s.dbgDrop = false → s.dbgCause = 0x0) ∧
  (s.dbgDrop = true → 1 ≤ s.dbgCause.toNat ∧ s.dbgCause.toNat ≤ 0xA) ∧
  ¬(s.outValid = true ∧ s.dbgDrop = true)

/-- The digit a sequence of digits leaves unpaired (43_hex_frame_detector.md R172). -/
def unpaired : ByteSeq → Option Byte
  | [] => none
  | [d] => some d
  | _ :: _ :: rest => unpaired rest

/-- The digits of a payload that pair up: all of them, or all but the first with `HEX_LEADING_NIBBLE` (R172). -/
def pairedPart (leadingNibble : Bool) (p : ByteSeq) : ByteSeq :=
  if leadingNibble then p.drop 1 else p

/-- R172: while a HEX frame that is not bad is read, `acc` is the sum of the decoded payload, `hph` says whether a digit is
unpaired, and `hnib` is that digit's value. -/
def State.HexAccounted (s : State) : Prop :=
  s.st = .readingHex → s.hbad = false →
    s.acc = byteSum (dec s.cfg.hexLeadingNibble s.hbuf) ∧
    s.hph = (unpaired (pairedPart s.cfg.hexLeadingNibble s.hbuf)).isSome ∧
    ∀ d, unpaired (pairedPart s.cfg.hexLeadingNibble s.hbuf) = some d → s.hnib = hexval d

/-- The record in progress holds no Checksum field, because every Checksum field ends the record (42_record_assembler.md
R152). -/
def State.NoChecksumInRecord (s : State) : Prop := CK_LABEL ∉ labels s.record

end Sys2Proof.Machine
end

