-- ==== Sys2Proof/Certificates/Slice0/Obligations.lean ====
section
/-! DEFINITION. The statements for the provers, in the order of OBLIGATIONS.json. Each docstring names the rule it formalises.
Every statement about an instruction is made for every configuration that 00_scope.md R9 admits. -/

open Sys2Proof
open Sys2Proof.Machine

/-! ### Encoding -/

/-- R79 and R84: for every well-formed instruction, every admitted configuration and every reachable value of the guard its
row allows, decoding the encoded operation word gives the instruction back. -/
def Obligations.DecodeOfEncodeGivesInstruction : Prop :=
  ∀ (cfg : Cfg) (g : Guard) (i : Instr), cfg.Admitted → g.Reachable i.st → i.guardHolds g = true →
    i.wellFormed cfg = true → decode cfg g (encode cfg i).toNat = .ok i

/-- R84: a decoded word is the word that encodes its instruction, whatever the guard values, so no bit of a word is lost. -/
def Obligations.EncodeOfDecodeGivesWord : Prop :=
  ∀ (cfg : Cfg) (g : Guard) (w : Nat) (i : Instr), decode cfg g w = .ok i → (encode cfg i).toNat = w

/-- R81 and R84: the decoder answers an instruction exactly for the 10-bit words of an admitted configuration, and rejects
every other input by name. -/
def Obligations.DecodeAnswersExactlyOperationWords : Prop :=
  ∀ (cfg : Cfg) (g : Guard) (w : Nat),
    (cfg.Admitted → w < 1024 → ∃ i, decode cfg g w = .ok i) ∧
    (cfg.Admitted → 1024 ≤ w → decode cfg g w = .error .widerThanOperationWord) ∧
    (¬ cfg.Admitted → decode cfg g w = .error .configRefused)

/-- R79: in every state and every guard value the core can reach, exactly one row of the transition map applies to a byte. -/
def Obligations.ExactlyOneRowApplies : Prop :=
  ∀ (cfg : Cfg) (st : St) (g : Guard) (b : Byte), cfg.Admitted → g.Reachable st →
    ∃ i : Instr, (i.rowApplies cfg st g = true ∧ i.byte cfg = b) ∧
      ∀ j : Instr, j.rowApplies cfg st g = true → j.byte cfg = b → j = i

/-- The words of opcode_table.json decode under REF to their rows (R84): one word a family, written out as its bits
`st ++ b`. A sanity statement. -/
def Obligations.SampleWordsDecodeToTheirRows : Prop :=
  decode Cfg.ref {} 0b0000111010 = .ok .idleMark ∧
  decode Cfg.ref {} 0b0001010000 = .ok (.idlePrint 0x50) ∧
  decode Cfg.ref {} 0b0100001001 = .ok .lblTab ∧
  decode Cfg.ref {} 0b1000001101 = .ok .valCr ∧
  decode Cfg.ref { isCk := true, vlen := 1 } 0b1000001101 = .ok .ckCr ∧
  decode Cfg.ref { crs := true } 0b1000001010 = .ok .valLf ∧
  decode Cfg.ref { isCk := true } 0b1011011100 = .ok (.ckByte 0xDC) ∧
  decode Cfg.ref {} 0b1100001010 = .ok .hexTerm ∧
  decode Cfg.ref {} 0b1100110101 = .ok (.hexDigit 0x35) ∧
  decode Cfg.ref { hbad := true } 0b1100110101 = .ok (.hexSkip 0x35)

/-- The model's choice (log 8), over R84: from every state, the very next step after a table word is placed runs the
instruction the decoder reads from that word, and completes. -/
def Obligations.PlacedTableWordIsRunByTheNextStep : Prop :=
  ∀ (s : State) (nbits w : Nat) (i : Instr), decodeTableWord nbits w = some i →
    ∃ t, step (s.withFetchWord nbits w) = .next t ∧
      exec i { s.withFetchWord nbits w with input := s.input } = .next t

/-! ### Byte classes -/

/-- R75: HEXDIG is the 22 bytes `0`-`9`, `A`-`F`, `a`-`f`, and `hexval` gives each its value. -/
def Obligations.HexDigitsAndTheirValues : Prop :=
  (∀ b : Byte, isHexDigit b = true ↔
    (0x30 ≤ b ∧ b ≤ 0x39) ∨ (0x41 ≤ b ∧ b ≤ 0x46) ∨ (0x61 ≤ b ∧ b ≤ 0x66)) ∧
  (∀ b : Byte, 0x30 ≤ b ∧ b ≤ 0x39 → zext8 (hexval b) = b - 0x30) ∧
  (∀ b : Byte, 0x41 ≤ b ∧ b ≤ 0x46 → zext8 (hexval b) = b - 0x41 + 10) ∧
  (∀ b : Byte, 0x61 ≤ b ∧ b ≤ 0x66 → zext8 (hexval b) = b - 0x61 + 10)

/-- R78: the class table under the reference instantiation, byte by byte. -/
def Obligations.ClassTableUnderReference : Prop :=
  ∀ b : Byte,
    (icls Cfg.ref b =
      if b = 0x3A then .mark else if 0x20 ≤ b ∧ b ≤ 0x7E then .print else .skip) ∧
    (tcls b =
      if b = 0x09 then .tab else if b = 0x0A then .lf else if b = 0x0D then .cr else .data) ∧
    (hcls Cfg.ref b =
      if b = 0x0A then .hterm else if b = 0x3A then .mark
      else if (0x30 ≤ b ∧ b ≤ 0x39) ∨ (0x41 ≤ b ∧ b ≤ 0x46) ∨ (0x61 ≤ b ∧ b ≤ 0x66) then .dig else .junk)

/-- R76: under an admitted configuration each class of the three class functions is the set of bytes the rule gives it. -/
def Obligations.ClassFunctionsUnderAdmittedConfiguration : Prop :=
  ∀ (cfg : Cfg) (b : Byte), cfg.Admitted →
    (icls cfg b = .mark ↔ b = cfg.hexMarker) ∧
    (icls cfg b = .print ↔ b ≠ cfg.hexMarker ∧ 0x20 ≤ b ∧ b ≤ 0x7E) ∧
    (icls cfg b = .skip ↔ b ≠ cfg.hexMarker ∧ ¬(0x20 ≤ b ∧ b ≤ 0x7E)) ∧
    (tcls b = .tab ↔ b = 0x09) ∧ (tcls b = .cr ↔ b = 0x0D) ∧ (tcls b = .lf ↔ b = 0x0A) ∧
    (tcls b = .data ↔ b ≠ 0x09 ∧ b ≠ 0x0D ∧ b ≠ 0x0A) ∧ tcls cfg.hexMarker = .data ∧
    (hcls cfg b = .hterm ↔ b = cfg.hexTerminator) ∧
    (hcls cfg b = .mark ↔ b = cfg.hexMarker) ∧
    (hcls cfg b = .dig ↔ isHexDigit b = true) ∧
    (hcls cfg b = .junk ↔ b ≠ cfg.hexTerminator ∧ b ≠ cfg.hexMarker ∧ isHexDigit b = false)

/-! ### Reset and the clock edge -/

/-- R270: every state element of the core at its reset value in the state after reset. (The configuration and the empty input
of that state are the model's choices, logs 1 and 2, and are not stated.) -/
def Obligations.ResetStateHoldsResetValues : Prop :=
  State.reset.st = .idle ∧ State.reset.crs = false ∧ State.reset.acc = 0x00 ∧ State.reset.lbuf = [] ∧
  State.reset.vbuf = [] ∧ State.reset.record = [] ∧ State.reset.hbuf = [] ∧ State.reset.hnib = 0x0 ∧
  State.reset.hph = false ∧ State.reset.hbad = false ∧ State.reset.outValid = false ∧
  State.reset.outUnit = none ∧ State.reset.dbgDrop = false ∧ State.reset.dbgCause = 0x0

/-- R270, R272 and R273: an edge with `rst = 1` puts every element at its reset value from any state, with or without a byte
offered, which is not consumed; the configuration is what the port shows. -/
def Obligations.ResetEdgeResetsFromAnyState : Prop :=
  ∀ (s : State) (e : Edge) (rest : List Edge),
    s.input = e :: rest → e.rst = true → e.offers.length ≤ 1 → (e.cfg.getD s.cfg).Admitted →
    ∃ t, step s = .next t ∧
      t.st = .idle ∧ t.crs = false ∧ t.acc = 0x00 ∧ t.lbuf = [] ∧ t.vbuf = [] ∧ t.record = [] ∧
      t.hbuf = [] ∧ t.hnib = 0x0 ∧ t.hph = false ∧ t.hbad = false ∧
      t.outValid = false ∧ t.outUnit = none ∧ t.dbgDrop = false ∧ t.dbgCause = 0x0 ∧
      t.cfg = e.cfg.getD s.cfg ∧ t.input = rest

/-- R200: at an edge with `rst = 0` and `in_valid = 0` no element changes; the edge is gone from the input. -/
def Obligations.EdgeWithoutByteChangesNothing : Prop :=
  ∀ (s : State) (e : Edge) (rest : List Edge),
    s.input = e :: rest → e.rst = false → e.offers = [] → e.cfg.getD s.cfg = s.cfg →
    s.cfg.Admitted → s.Legal → step s = .next { s with input := rest }

/-- R213 and R214: with no edge left nothing changes (the model's reading of the waiting, log 13), and the run of the empty
stream is the state itself with no unit. -/
def Obligations.EmptyInputChangesNothing : Prop :=
  ∀ s : State, (s.input = [] → s.cfg.Admitted → s.Legal → step s = .next s) ∧ run s [] = .next (s, [])

/-- R200 and R201: at an edge that offers one byte, where the decoder reads the instruction `i` from the state's code and the
byte, the step is `i` run in the state less that edge. -/
def Obligations.StepRunsTheDecodedInstruction : Prop :=
  ∀ (s : State) (e : Edge) (rest : List Edge) (b : Byte) (i : Instr),
    s.input = e :: rest → e.rst = false → e.offers = [b] → e.cfg.getD s.cfg = s.cfg →
    s.cfg.Admitted → s.Legal → decode s.cfg s.guard (opWord s.st b).toNat = .ok i →
    step s = exec i { s with input := rest }

/-- The refusals of an edge, each by its name: two bytes in one step (R60, R281); without reset, a changed configuration
(R283), a configuration that breaks R9 (R81), a state that breaks R33 (93_implementation_defined.md I10). The MODEL'S CHOICE, no
rule's: that two bytes are refused under reset too, and which refusal an edge gets to which several apply (the order of these
clauses), log 4; that an edge WITH reset is refused under a configuration that breaks R9 (read from R81, said by neither R270
nor R274), log 6. -/
def Obligations.EdgesOutsideTheContractAreRefused : Prop :=
  ∀ (s : State) (e : Edge) (rest : List Edge), s.input = e :: rest →
    (2 ≤ e.offers.length → step s = .refused .twoBytesInOneStep) ∧
    (e.offers.length ≤ 1 → e.rst = true → ¬ (e.cfg.getD s.cfg).Admitted → step s = .refused .configRefused) ∧
    (e.offers.length ≤ 1 → e.rst = false → e.cfg.getD s.cfg ≠ s.cfg → step s = .refused .configChanged) ∧
    (e.offers.length ≤ 1 → e.rst = false → e.cfg.getD s.cfg = s.cfg → ¬ s.cfg.Admitted →
      step s = .refused .configRefused) ∧
    (e.offers.length ≤ 1 → e.rst = false → e.cfg.getD s.cfg = s.cfg → s.cfg.Admitted → ¬ s.Legal →
      step s = .refused .invariantBroken)

/-- R80, R201 and R202: in every legal state every byte has a transition that completes; the step consumes exactly the one
byte and leaves the configuration as it is. -/
def Obligations.EveryByteCompletesInEveryLegalState : Prop :=
  ∀ (s : State) (e : Edge) (rest : List Edge) (b : Byte),
    s.input = e :: rest → e.rst = false → e.offers = [b] → e.cfg.getD s.cfg = s.cfg →
    s.cfg.Admitted → s.Legal →
    ∃ t, step s = .next t ∧ t.input = rest ∧ t.cfg = s.cfg

/-- R240 and R213: no finite stream of bytes stops the core. From every legal state under an admitted configuration the run
completes, in a legal state, with the configuration and the edges to come as they were. -/
def Obligations.NoByteStreamStopsTheCore : Prop :=
  ∀ (s : State) (bs : List Byte), s.cfg.Admitted → s.Legal →
    ∃ t us, run s bs = .next (t, us) ∧ t.Legal ∧ t.cfg = s.cfg ∧ t.input = s.input

/-- R202 and R50: a step reads the next edge of the input and nothing behind it, so what comes later, be it finite or
endless, has no part in it. -/
def Obligations.StepReadsOnlyTheNextEdge : Prop :=
  ∀ (s : State) (e : Edge) (rest later : List Edge), s.input = e :: rest →
    (∀ t, step s = .next t → step { s with input := e :: later } = .next { t with input := later }) ∧
    (∀ r, step s = .refused r → step { s with input := e :: later } = .refused r)

/-- Where an instruction runs and where it does not: it completes exactly where its row applies in a legal state under an
admitted configuration, and is refused by name elsewhere (R9, R33, R79; for the last refusal log 7). -/
def Obligations.InstructionCompletesExactlyWhenReady : Prop :=
  ∀ (i : Instr) (s : State),
    (Ready i s → ∃ t, exec i s = .next t) ∧
    (¬ s.cfg.Admitted → exec i s = .refused .configRefused) ∧
    (s.cfg.Admitted → ¬ s.Legal → exec i s = .refused .invariantBroken) ∧
    (s.cfg.Admitted → s.Legal → i.rowApplies s.cfg s.st s.guard = false → exec i s = .refused .rowNotSelected)

/-! ### Invariants -/

/-- R33: every state that a step answers is legal under an admitted configuration; every transition and every reset
re-establishes the invariants. -/
def Obligations.StepAnswersOnlyLegalStates : Prop :=
  ∀ s t : State, step s = .next t → t.cfg.Admitted ∧ t.Legal

/-- R240 and R213: from a safe state, one in which the environment keeps its contract, the machine never stops: every step
answers a next state, and that state is safe. -/
def Obligations.SafeStatesStepToSafeStates : Prop :=
  ∀ s : State, s.Safe → ∃ t, step s = .next t ∧ t.Safe

/-- R30, R31 and R207: every step keeps the output register and the diagnostic port in agreement with themselves. -/
def Obligations.StepKeepsOutputsInAgreement : Prop :=
  ∀ s t : State, s.OutputsAgree → step s = .next t → t.OutputsAgree

/-- R172: every step keeps the account of a HEX payload in progress. -/
def Obligations.StepKeepsHexPayloadAccounted : Prop :=
  ∀ s t : State, s.HexAccounted → step s = .next t → t.HexAccounted

/-- R152: every step keeps the label Checksum out of the record in progress. -/
def Obligations.StepKeepsChecksumOutOfRecord : Prop :=
  ∀ s t : State, s.NoChecksumInRecord → step s = .next t → t.NoChecksumInRecord

/-- The state after reset meets every invariant above (under the configuration and input the model gives it, logs 1 and 2). -/
def Obligations.ResetStateMeetsTheInvariants : Prop :=
  State.reset.Safe ∧ State.reset.OutputsAgree ∧ State.reset.HexAccounted ∧ State.reset.NoChecksumInRecord

/-! ### The transitions: where each completes and the whole next state, which is also its frame -/

/-- R171, IDLE.MARK. -/
def Obligations.IdleMarkBeginsHexFrame : Prop :=
  ∀ s : State, Ready .idleMark s →
    exec .idleMark s = .next { s with
      hbuf := [], hnib := 0x0, hph := false, hbad := false, acc := 0x00, st := .readingHex
      outValid := false, outUnit := none, dbgDrop := false, dbgCause := 0x0 }

/-- R210 and R102, IDLE.PRINT. -/
def Obligations.IdlePrintStartsRecord : Prop :=
  ∀ (b : Byte) (s : State), Ready (.idlePrint b) s →
    exec (.idlePrint b) s = .next { s with
      record := [], lbuf := [b], vbuf := [], crs := false, acc := s.cfg.checksumSeed + b, st := .readingLabel
      outValid := false, outUnit := none, dbgDrop := false, dbgCause := 0x0 }

/-- R211 and R179, IDLE.SKIP and HEX.SKIP: nothing but the output register and the diagnostic port, which every step
writes, is written. -/
def Obligations.SkippedBytesChangeNothing : Prop :=
  ∀ (b : Byte) (s : State),
    (Ready (.idleSkip b) s → exec (.idleSkip b) s =
      .next { s with outValid := false, outUnit := none, dbgDrop := false, dbgCause := 0x0 }) ∧
    (Ready (.hexSkip b) s → exec (.hexSkip b) s =
      .next { s with outValid := false, outUnit := none, dbgDrop := false, dbgCause := 0x0 })

/-- R121, LBL.TAB: the label is kept. -/
def Obligations.LblTabStartsValue : Prop :=
  ∀ s : State, Ready .lblTab s →
    exec .lblTab s = .next { s with
      acc := s.acc + 0x09, vbuf := [], crs := false, st := .readingValue
      outValid := false, outUnit := none, dbgDrop := false, dbgCause := 0x0 }

/-- R122 and R205, LBL.DATA: append while there is room, else the whole record is discarded with LABEL_OVERFLOW. -/
def Obligations.LblDataAppendsOrOverflows : Prop :=
  ∀ (b : Byte) (s : State), Ready (.lblData b) s →
    exec (.lblData b) s = .next
      (if hasRoom s.cfg.maxLabel s.lbuf.length = true then
        { s with
          lbuf := s.lbuf ++ [b], acc := s.acc + b
          outValid := false, outUnit := none, dbgDrop := false, dbgCause := 0x0 }
      else { State.resetWith s.cfg s.input with dbgDrop := true, dbgCause := 0x2 })

/-- R123, R145, R147, R151 and R153 with R205 and R242: the five rows that only discard leave every element at its reset
value, emit nothing, keep the inputs, and report their cause. -/
def Obligations.BadBytesDiscardTheRecord : Prop :=
  ∀ (b : Byte) (s : State),
    (Ready (.lblTerm b) s → exec (.lblTerm b) s =
      .next { State.resetWith s.cfg s.input with dbgDrop := true, dbgCause := 0x1 }) ∧
    (Ready (.valBad b) s → exec (.valBad b) s =
      .next { State.resetWith s.cfg s.input with dbgDrop := true, dbgCause := 0x3 }) ∧
    (Ready (.valNolf b) s → exec (.valNolf b) s =
      .next { State.resetWith s.cfg s.input with dbgDrop := true, dbgCause := 0x5 }) ∧
    (Ready (.ckBad b) s → exec (.ckBad b) s =
      .next { State.resetWith s.cfg s.input with dbgDrop := true, dbgCause := 0x6 }) ∧
    (Ready (.ckNolf b) s → exec (.ckNolf b) s =
      .next { State.resetWith s.cfg s.input with dbgDrop := true, dbgCause := 0x5 })

/-- R143 and R205, VAL.DATA: append while there is room, else the whole record is discarded with VALUE_OVERFLOW. -/
def Obligations.ValDataAppendsOrOverflows : Prop :=
  ∀ (b : Byte) (s : State), Ready (.valData b) s →
    exec (.valData b) s = .next
      (if hasRoom s.cfg.maxValue s.vbuf.length = true then
        { s with
          vbuf := s.vbuf ++ [b], acc := s.acc + b
          outValid := false, outUnit := none, dbgDrop := false, dbgCause := 0x0 }
      else { State.resetWith s.cfg s.input with dbgDrop := true, dbgCause := 0x4 })

/-- R144, VAL.CR: the CR is in the window. -/
def Obligations.ValCrMarksTerminator : Prop :=
  ∀ s : State, Ready .valCr s →
    exec .valCr s = .next { s with
      crs := true, acc := s.acc + 0x0D
      outValid := false, outUnit := none, dbgDrop := false, dbgCause := 0x0 }

/-- R146, VAL.LF: the field goes into the record and the next label begins, or the record overflows and is discarded. -/
def Obligations.ValLfFlushesFieldOrOverflows : Prop :=
  ∀ s : State, Ready .valLf s →
    (∀ r, insertField s.cfg.maxFields s.record s.lbuf s.vbuf = some r →
      exec .valLf s = .next { s with
        record := r, acc := s.acc + 0x0A, lbuf := [], vbuf := [], crs := false, st := .readingLabel
        outValid := false, outUnit := none, dbgDrop := false, dbgCause := 0x0 }) ∧
    (insertField s.cfg.maxFields s.record s.lbuf s.vbuf = none →
      exec .valLf s = .next { State.resetWith s.cfg s.input with dbgDrop := true, dbgCause := 0x7 })

/-- R149, CK.BYTE: any byte is the checksum byte, and it is in the window. -/
def Obligations.CkByteTakesAnyByte : Prop :=
  ∀ (b : Byte) (s : State), Ready (.ckByte b) s →
    exec (.ckByte b) s = .next { s with
      vbuf := [b], acc := s.acc + b
      outValid := false, outUnit := none, dbgDrop := false, dbgCause := 0x0 }

/-- R150, CK.CR: `acc` is unchanged, since this CR is outside the window. -/
def Obligations.CkCrLeavesTheSum : Prop :=
  ∀ s : State, Ready .ckCr s →
    exec .ckCr s = .next { s with
      crs := true, outValid := false, outUnit := none, dbgDrop := false, dbgCause := 0x0 }

/-- R152 and R243, CK.LF: the overflow is tested first; then the record is emitted when the sum is zero and discarded when it
is not. In each case every element but the output register and the diagnostic port is at its reset value. -/
def Obligations.CkLfEmitsOrDiscards : Prop :=
  ∀ s : State, Ready .ckLf s →
    (insertField s.cfg.maxFields s.record s.lbuf s.vbuf = none →
      exec .ckLf s = .next { State.resetWith s.cfg s.input with dbgDrop := true, dbgCause := 0x7 }) ∧
    (∀ r, insertField s.cfg.maxFields s.record s.lbuf s.vbuf = some r →
      (s.acc = 0x00 → exec .ckLf s = .next
        { State.resetWith s.cfg s.input with outValid := true, outUnit := some (.record r) }) ∧
      (s.acc ≠ 0x00 → exec .ckLf s = .next
        { State.resetWith s.cfg s.input with dbgDrop := true, dbgCause := 0x8 }))

/-- R174 and R173, HEX.TERM: the frame is emitted exactly when it is not bad, has no unpaired digit, is not empty and its sum
is the target; else it is discarded with HEX_INVALID. -/
def Obligations.HexTermEmitsOrDiscards : Prop :=
  ∀ s : State, Ready .hexTerm s →
    exec .hexTerm s = .next
      (if s.hbad = false ∧ s.hph = false ∧ 1 ≤ s.hbuf.length ∧ s.acc = s.cfg.hexCkTarget then
        { State.resetWith s.cfg s.input with outValid := true, outUnit := some (.hexFrame s.hbuf) }
      else { State.resetWith s.cfg s.input with dbgDrop := true, dbgCause := 0x9 })

/-- R175, HEX.MARK: the stale frame is reported as dropped and a fresh one begins. -/
def Obligations.HexMarkRestartsFrame : Prop :=
  ∀ s : State, Ready .hexMark s →
    exec .hexMark s = .next { s with
      hbuf := [], hnib := 0x0, hph := false, hbad := false, acc := 0x00, st := .readingHex
      outValid := false, outUnit := none, dbgDrop := true, dbgCause := 0xA }

/-- R177, HEX.DIGIT: a lone leading digit, the high digit of a pair, the low digit of a pair, or an overflow. -/
def Obligations.HexDigitAssemblesBytes : Prop :=
  ∀ (b : Byte) (s : State), Ready (.hexDigit b) s →
    exec (.hexDigit b) s = .next
      (if hasRoom s.cfg.maxHex s.hbuf.length = true then
        if s.cfg.hexLeadingNibble = true ∧ s.hbuf = [] then
          { s with
            hbuf := s.hbuf ++ [b], acc := s.acc + zext8 (hexval b)
            outValid := false, outUnit := none, dbgDrop := false, dbgCause := 0x0 }
        else if s.hph = false then
          { s with
            hbuf := s.hbuf ++ [b], hnib := hexval b, hph := true
            outValid := false, outUnit := none, dbgDrop := false, dbgCause := 0x0 }
        else
          { s with
            hbuf := s.hbuf ++ [b], acc := s.acc + (zext8 s.hnib * 16 + zext8 (hexval b)), hnib := 0x0, hph := false
            outValid := false, outUnit := none, dbgDrop := false, dbgCause := 0x0 }
      else
        { s with hbad := true, outValid := false, outUnit := none, dbgDrop := false, dbgCause := 0x0 })

/-- R178, HEX.JUNK: the frame is marked bad; `hbuf`, `acc`, `hnib` and `hph` are unchanged. -/
def Obligations.HexJunkMarksFrameBad : Prop :=
  ∀ (b : Byte) (s : State), Ready (.hexJunk b) s →
    exec (.hexJunk b) s = .next { s with
      hbad := true, outValid := false, outUnit := none, dbgDrop := false, dbgCause := 0x0 }

/-! ### Shared operations -/

/-- R141: `insert` overwrites the value of a label that is there and changes no position and no other label's value; it
appends a new label at the end while there is room; otherwise it overflows. -/
def Obligations.InsertOverwritesAppendsOrOverflows : Prop :=
  ∀ (cap : Capacity) (r : Record) (l v : ByteSeq), (labels r).Nodup →
    (l ∈ labels r → ∃ r', insertField cap r l v = some r' ∧ labels r' = labels r ∧
      lookup r' l = some v ∧ ∀ k, k ≠ l → lookup r' k = lookup r k) ∧
    (l ∉ labels r → hasRoom cap r.length = true → insertField cap r l v = some (r ++ [⟨l, v⟩])) ∧
    (l ∉ labels r → hasRoom cap r.length = false → insertField cap r l v = none)

/-- R108: the sum does not depend on the order of the window's bytes, one changed byte always changes it, and the checksum
byte of R83 closes the window. -/
def Obligations.ChecksumArithmetic : Prop :=
  (∀ p q : ByteSeq, p.Perm q → byteSum p = byteSum q) ∧
  (∀ (p q : ByteSeq) (b c : Byte), b ≠ c → byteSum (p ++ b :: q) ≠ byteSum (p ++ c :: q)) ∧
  (∀ (seed : Byte) (p : ByteSeq), seed + byteSum p + checkByte seed p = 0x00)

/-- R242: the cause codes, written by the discards of the rows. -/
def Obligations.CauseCodesOfTheTable : Prop :=
  causeCode .termInLabel = 0x1 ∧ causeCode .labelOverflow = 0x2 ∧ causeCode .badInValue = 0x3 ∧
  causeCode .valueOverflow = 0x4 ∧ causeCode .crWithoutLf = 0x5 ∧ causeCode .ckValueTooLong = 0x6 ∧
  causeCode .recordOverflow = 0x7 ∧ causeCode .checksumMismatch = 0x8 ∧ causeCode .hexInvalid = 0x9 ∧
  causeCode .hexRestart = 0xA

/-! ### Rules about every instruction -/

/-- R101, R103 and R104: while a text record goes on, every byte is added to the sum, but for the CR that ends the Checksum
field, which leaves it. -/
def Obligations.WindowBytesAreSummed : Prop :=
  ∀ (i : Instr) (s t : State), exec i s = .next t →
    (s.st = .readingLabel ∨ s.st = .readingValue) → t.st ≠ .idle →
    t.acc = if i = .ckCr then s.acc else s.acc + i.byte s.cfg

/-- R206: only CK.LF and HEX.TERM emit, a Record and a HexFrame. -/
def Obligations.OnlyCkLfAndHexTermEmit : Prop :=
  ∀ (i : Instr) (s t : State), exec i s = .next t → t.outValid = true →
    (i = .ckLf ∧ ∃ r, t.outUnit = some (.record r)) ∨ (i = .hexTerm ∧ ∃ h, t.outUnit = some (.hexFrame h))

/-- R154 and R152: a record is emitted only by CK.LF and only with `acc = 0`; where no Checksum field is in the record in
progress, the unit is that record with the Checksum field, of one byte, appended at its end, and its labels are distinct. -/
def Obligations.EmittedRecordSumsToZero : Prop :=
  ∀ (i : Instr) (s t : State) (r : Record), exec i s = .next t → t.outUnit = some (.record r) →
    i = .ckLf ∧ s.acc = 0x00 ∧
    (s.NoChecksumInRecord →
      ∃ x, s.vbuf = [x] ∧ r = s.record ++ [⟨CK_LABEL, [x]⟩] ∧ (labels r).Nodup)

/-- R173, R172 and R176: where the payload is accounted for, an emitted HEX frame holds hex digits only, decodes to at least
one byte, its decoded bytes sum to the target, its length has the parity the configuration asks for, and it fits. -/
def Obligations.EmittedHexFrameIsValid : Prop :=
  ∀ (i : Instr) (s t : State) (h : ByteSeq), s.HexAccounted → exec i s = .next t →
    t.outUnit = some (.hexFrame h) →
    h.all isHexDigit = true ∧ 1 ≤ (dec s.cfg.hexLeadingNibble h).length ∧
    byteSum (dec s.cfg.hexLeadingNibble h) = s.cfg.hexCkTarget ∧
    h.length % 2 = (if s.cfg.hexLeadingNibble then 1 else 0) ∧
    within s.cfg.maxHex h.length = true

/-- R174 and R170: the only way out of READING_HEX is the frame terminator, and it leads to IDLE. -/
def Obligations.OnlyTheTerminatorLeavesReadingHex : Prop :=
  ∀ (i : Instr) (s t : State), exec i s = .next t → s.st = .readingHex →
    (t.st = .readingHex ∧ i ≠ .hexTerm) ∨ (t.st = .idle ∧ i = .hexTerm)

/-- R271: the state after any discard, and after an emit, is the reset state in every element but the output register and the
diagnostic port; the inputs are kept. HEX.MARK, which reports the stale frame but does not return to IDLE, is no `discard`
(R175). -/
def Obligations.AfterDiscardOrEmitTheCoreIsReset : Prop :=
  ∀ (i : Instr) (s t : State), exec i s = .next t →
    t.outValid = true ∨ (t.dbgDrop = true ∧ i ≠ .hexMark) →
    t = { State.resetWith s.cfg s.input with
      outValid := t.outValid, outUnit := t.outUnit, dbgDrop := t.dbgDrop, dbgCause := t.dbgCause }

/-- R142: which rules a value phase uses is decided by `is_ck`, and it cannot change while the phase lasts. -/
def Obligations.ValuePhaseKeepsItsRules : Prop :=
  ∀ (i : Instr) (s t : State), exec i s = .next t → s.st = .readingValue →
    (s.isCk = true ↔ i = .ckCr ∨ i = .ckLf ∨ ∃ b, i = .ckByte b ∨ i = .ckBad b ∨ i = .ckNolf b) ∧
    (t.st = .readingValue → t.lbuf = s.lbuf ∧ t.isCk = s.isCk)

/-- R7: a capacity that is UNBOUNDED never overflows. -/
def Obligations.UnboundedBuffersNeverOverflow : Prop :=
  ∀ (i : Instr) (s t : State), exec i s = .next t →
    (s.cfg.maxLabel = .unbounded → t.dbgCause ≠ 0x2) ∧
    (s.cfg.maxValue = .unbounded → t.dbgCause ≠ 0x4) ∧
    (s.cfg.maxFields = .unbounded → t.dbgCause ≠ 0x7) ∧
    (s.cfg.maxHex = .unbounded → (∃ b, i = .hexDigit b) → t.hbad = false)

/-- R62 and R283: no instruction changes the configuration or the edges to come. -/
def Obligations.InstructionsLeaveTheInputsAlone : Prop :=
  ∀ (i : Instr) (s t : State), exec i s = .next t → t.cfg = s.cfg ∧ t.input = s.input

/-- R122, R143 and 90_conflicts.md C8: while a text record is read no byte begins a HEX frame; the marker is data there. -/
def Obligations.NoHexFrameBeginsInsideARecord : Prop :=
  ∀ (i : Instr) (s t : State), exec i s = .next t →
    s.st = .readingLabel ∨ s.st = .readingValue → t.st ≠ .readingHex

/-! ### Streams -/

/-- R59 and R212: the run of two streams one after the other is the two runs in sequence, with their units in order. -/
def Obligations.RunsCompose : Prop :=
  ∀ (s t : State) (p q : List Byte) (us : List OutUnit), run s p = .next (t, us) →
    run s (p ++ q) =
      match run t q with
      | .next (u, vs) => .next (u, us ++ vs)
      | .fault r => .fault r
      | .refused r => .refused r

/-- R212 and R6: every stream, finite or infinite, has one output, the limit of the outputs of its finite prefixes. The run
of every prefix completes; a longer prefix has the units of a shorter one first; a place holds one unit at most, and no place
is skipped; and the output of a finite stream is the list of units of its run. -/
def Obligations.OutputIsTheLimitOfFinitePrefixes : Prop :=
  ∀ (s : State) (stream : InputStream), s.cfg.Admitted → s.Legal →
    (∀ n, ∃ t us, run s (stream.first n) = .next (t, us)) ∧
    (∀ m n t u us vs, m ≤ n → run s (stream.first m) = .next (t, us) → run s (stream.first n) = .next (u, vs) → us <+: vs) ∧
    (∀ k u v, outputAt s stream k u → outputAt s stream k v → u = v) ∧
    (∀ j k u, j ≤ k → outputAt s stream k u → ∃ v, outputAt s stream j v) ∧
    (∀ bs t us, stream = .finite bs → run s bs = .next (t, us) →
      ∀ k u, outputAt s stream k u ↔ us[k]? = some u)

/-- R211 (property Q3 of 95_test_vectors.md): in IDLE any stretch of bytes of class SKIP emits nothing and leaves every element
as it was, but for the output register and the diagnostic port. -/
def Obligations.SkippedNoiseEmitsNothing : Prop :=
  ∀ (s : State) (noise : List Byte), s.cfg.Admitted → s.Legal → s.st = .idle →
    noise.all (fun b => icls s.cfg b == .skip) = true →
    ∃ t, run s noise = .next (t, []) ∧ t = { s with
      outValid := t.outValid, outUnit := t.outUnit, dbgDrop := t.dbgDrop, dbgCause := t.dbgCause }

/-- R70, R71, R101 and R152 (property Q1 of 95_test_vectors.md): a text record whose fields fit, fed from IDLE with any
checksum byte `x`, emits one record, its labels in order of first appearance with their last values and then the Checksum
field, when seed, window and `x` sum to 0 modulo 256; otherwise it emits nothing and the last step reports
CHECKSUM_MISMATCH. Either way the core is at rest after it. -/
def Obligations.TextRecordIsEmittedExactlyWhenItsSumIsZero : Prop :=
  ∀ (s : State) (fs : List Field) (x : Byte), s.cfg.Admitted → s.Legal → s.st = .idle → fieldsFit s.cfg fs = true →
    (s.cfg.checksumSeed + byteSum (recordPreamble fs) + x = 0x00 →
      run s (recordPreamble fs ++ [x, CR, LF]) = .next
        ({ State.resetWith s.cfg s.input with
            outValid := true, outUnit := some (.record (assembled fs ++ [⟨CK_LABEL, [x]⟩])) },
         [.record (assembled fs ++ [⟨CK_LABEL, [x]⟩])])) ∧
    (s.cfg.checksumSeed + byteSum (recordPreamble fs) + x ≠ 0x00 →
      run s (recordPreamble fs ++ [x, CR, LF]) = .next
        ({ State.resetWith s.cfg s.input with dbgDrop := true, dbgCause := 0x8 }, []))

/-- R108 and R286 (property Q2 of 95_test_vectors.md, a corrupted value byte): a valid record with one byte of one value
replaced by another byte that is not structural emits nothing, and the core is at rest after it. -/
def Obligations.OneCorruptedValueByteEmitsNothing : Prop :=
  ∀ (s : State) (fs gs : List Field) (l p q : ByteSeq) (b c : Byte),
    s.cfg.Admitted → s.Legal → s.st = .idle → isData c = true → b ≠ c →
    fieldsFit s.cfg (fs ++ ⟨l, p ++ b :: q⟩ :: gs) = true →
    run s (recordPreamble (fs ++ ⟨l, p ++ c :: q⟩ :: gs) ++
        [checkByte s.cfg.checksumSeed (recordPreamble (fs ++ ⟨l, p ++ b :: q⟩ :: gs)), CR, LF]) =
      .next ({ State.resetWith s.cfg s.input with dbgDrop := true, dbgCause := 0x8 }, [])

/-- R72, R173 and R176 (property Q4 of 95_test_vectors.md, the HEX frame): without the leading nibble, the frame of R83 around
any bytes whose digits fit, fed from IDLE, emits exactly its digits as one HexFrame. -/
def Obligations.ValidHexFrameIsEmitted : Prop :=
  ∀ (s : State) (bs : ByteSeq), s.cfg.Admitted → s.Legal → s.st = .idle → s.cfg.hexLeadingNibble = false →
    within s.cfg.maxHex (2 * (bs.length + 1)) = true →
    run s (hexFrameBytes s.cfg bs) = .next
      ({ State.resetWith s.cfg s.input with
          outValid := true, outUnit := some (.hexFrame (hex2 (bs ++ [hexSum s.cfg bs]))) },
       [.hexFrame (hex2 (bs ++ [hexSum s.cfg bs]))])
end

