-- ==== Sys2Proof/Laws/Decode.lean ====
section
/-! SUPPORT. The operation word holds its two fields, and all that the dispatch can answer. -/

namespace Sys2Proof

@[simp] theorem ofCode_code (st : St) : St.ofCode st.code = st := by cases st <;> rfl

/-- The bits of an operation word: the byte below, the state code above. -/
theorem opWord_getLsbD (st : St) (b : Byte) (i : Nat) :
    (opWord st b).getLsbD i = if i < 8 then b.getLsbD i else st.code.getLsbD (i - 8) :=
  (BitVec.getLsbD_append (x := st.code) (y := b)).trans (by simp)

@[simp] theorem wordState_opWord (st : St) (b : Byte) : wordState (opWord st b) = st := by
  have h : (opWord st b).extractLsb' 8 2 = st.code := by
    apply BitVec.eq_of_getLsbD_eq
    intro i hi
    rw [BitVec.getLsbD_extractLsb', opWord_getLsbD]
    simp [hi]
  rw [wordState, h, ofCode_code]

@[simp] theorem wordByte_opWord (st : St) (b : Byte) : wordByte (opWord st b) = b := by
  apply BitVec.eq_of_getLsbD_eq
  intro i hi
  rw [wordByte, BitVec.getLsbD_extractLsb', opWord_getLsbD]
  simp [hi]

/-- Decoding an operation word is the dispatch of its two fields. -/
theorem decode_opWord {cfg : Cfg} (h : cfg.Admitted) (g : Guard) (st : St) (b : Byte) :
    decode cfg g (opWord st b).toNat = .ok (select cfg st g b) := by
  rw [decode, if_pos h, if_pos (opWord st b).isLt, BitVec.ofNat_toNat, BitVec.setWidth_eq, wordState_opWord, wordByte_opWord]

/-- The dispatch answers a row of the state it is asked for. -/
theorem select_st (cfg : Cfg) (st : St) (g : Guard) (b : Byte) : (select cfg st g b).st = st := by
  unfold select
  repeat' split
  all_goals rfl

theorem icls_mark {cfg : Cfg} {b : Byte} : icls cfg b = .mark ↔ b = cfg.hexMarker := by
  unfold icls; split
  · simp_all
  · split <;> simp_all

theorem tcls_tab {b : Byte} : tcls b = .tab ↔ b = TAB := by
  unfold tcls; split
  · simp_all
  · split
    · simp_all
    · split <;> simp_all

theorem tcls_cr {b : Byte} : tcls b = .cr ↔ b = CR := by
  unfold tcls; split
  · next h => subst h; decide
  · split
    · simp_all
    · split <;> simp_all

theorem tcls_lf {b : Byte} : tcls b = .lf ↔ b = LF := by
  unfold tcls; split
  · next h => subst h; decide
  · split
    · next h => subst h; decide
    · split <;> simp_all

theorem hcls_hterm {cfg : Cfg} {b : Byte} : hcls cfg b = .hterm ↔ b = cfg.hexTerminator := by
  unfold hcls; split
  · simp_all
  · split
    · simp_all
    · split <;> simp_all

theorem hcls_mark {cfg : Cfg} {b : Byte} (h : cfg.hexTerminator ≠ cfg.hexMarker) :
    hcls cfg b = .mark ↔ b = cfg.hexMarker := by
  unfold hcls; split
  · simp_all
  · split
    · simp_all
    · split <;> simp_all

theorem isHexDigit_of_dig {cfg : Cfg} {b : Byte} (h : hcls cfg b = .dig) : isHexDigit b = true := by
  unfold hcls at h
  split at h
  · cases h
  · split at h
    · cases h
    · split at h
      · assumption
      · cases h

/-- The dispatch answers a row that carries the byte it was given. -/
theorem select_byte (cfg : Cfg) (st : St) (g : Guard) (b : Byte) (h : cfg.hexTerminator ≠ cfg.hexMarker) :
    (select cfg st g b).byte cfg = b := by
  unfold select
  repeat' split
  all_goals first
    | rfl
    | exact (icls_mark.mp ‹_›).symm
    | exact (tcls_tab.mp ‹_›).symm
    | exact (tcls_cr.mp ‹_›).symm
    | exact (tcls_lf.mp ‹_›).symm
    | exact (hcls_hterm.mp ‹_›).symm
    | exact ((hcls_mark h).mp ‹_›).symm

/-- In every guard the core can reach, the dispatch answers a row whose state, guard and class hold. -/
theorem select_rowApplies (cfg : Cfg) (st : St) (g : Guard) (b : Byte) (hg : g.Reachable st) :
    (select cfg st g b).rowApplies cfg st g = true := by
  obtain ⟨-, -, hv⟩ := hg
  cases st
  case readingValue =>
    have hv := hv rfl
    unfold select
    dsimp only
    split
    · split <;> split <;>
        simp_all [Instr.rowApplies, Instr.st, Instr.guardHolds, Instr.wellFormed, Instr.classHolds]
    · next hck =>
      simp only [Bool.not_eq_false] at hck
      obtain ⟨hle, hone⟩ := hv hck
      split
      · simp_all [Instr.rowApplies, Instr.st, Instr.guardHolds, Instr.wellFormed, Instr.classHolds]
      · have : g.vlen = 1 := by omega
        split <;> split <;>
          simp_all [Instr.rowApplies, Instr.st, Instr.guardHolds, Instr.wellFormed, Instr.classHolds]
  all_goals
    unfold select
    repeat' split
    all_goals simp_all [Instr.rowApplies, Instr.st, Instr.guardHolds, Instr.wellFormed, Instr.classHolds]

end Sys2Proof
end

