-- ==== Sys2Proof/Laws/State.lean ====
section
/-! SUPPORT. One lemma per field of State per named update, true by definition, so that no later proof unfolds an update. -/

namespace Sys2Proof.Machine

/-! ### startStep -/

@[simp] theorem startStep_cfg (s : State) : (startStep s).cfg = s.cfg := rfl
@[simp] theorem startStep_st (s : State) : (startStep s).st = s.st := rfl
@[simp] theorem startStep_crs (s : State) : (startStep s).crs = s.crs := rfl
@[simp] theorem startStep_acc (s : State) : (startStep s).acc = s.acc := rfl
@[simp] theorem startStep_lbuf (s : State) : (startStep s).lbuf = s.lbuf := rfl
@[simp] theorem startStep_vbuf (s : State) : (startStep s).vbuf = s.vbuf := rfl
@[simp] theorem startStep_record (s : State) : (startStep s).record = s.record := rfl
@[simp] theorem startStep_hbuf (s : State) : (startStep s).hbuf = s.hbuf := rfl
@[simp] theorem startStep_hnib (s : State) : (startStep s).hnib = s.hnib := rfl
@[simp] theorem startStep_hph (s : State) : (startStep s).hph = s.hph := rfl
@[simp] theorem startStep_hbad (s : State) : (startStep s).hbad = s.hbad := rfl
@[simp] theorem startStep_outValid (s : State) : (startStep s).outValid = false := rfl
@[simp] theorem startStep_outUnit (s : State) : (startStep s).outUnit = none := rfl
@[simp] theorem startStep_dbgDrop (s : State) : (startStep s).dbgDrop = false := rfl
@[simp] theorem startStep_dbgCause (s : State) : (startStep s).dbgCause = 0x0 := rfl
@[simp] theorem startStep_input (s : State) : (startStep s).input = s.input := rfl

/-! ### clear -/

@[simp] theorem clear_cfg (s : State) : (clear s).cfg = s.cfg := rfl
@[simp] theorem clear_st (s : State) : (clear s).st = s.st := rfl
@[simp] theorem clear_crs (s : State) : (clear s).crs = false := rfl
@[simp] theorem clear_acc (s : State) : (clear s).acc = 0x00 := rfl
@[simp] theorem clear_lbuf (s : State) : (clear s).lbuf = [] := rfl
@[simp] theorem clear_vbuf (s : State) : (clear s).vbuf = [] := rfl
@[simp] theorem clear_record (s : State) : (clear s).record = [] := rfl
@[simp] theorem clear_hbuf (s : State) : (clear s).hbuf = [] := rfl
@[simp] theorem clear_hnib (s : State) : (clear s).hnib = 0x0 := rfl
@[simp] theorem clear_hph (s : State) : (clear s).hph = false := rfl
@[simp] theorem clear_hbad (s : State) : (clear s).hbad = false := rfl
@[simp] theorem clear_outValid (s : State) : (clear s).outValid = s.outValid := rfl
@[simp] theorem clear_outUnit (s : State) : (clear s).outUnit = s.outUnit := rfl
@[simp] theorem clear_dbgDrop (s : State) : (clear s).dbgDrop = s.dbgDrop := rfl
@[simp] theorem clear_dbgCause (s : State) : (clear s).dbgCause = s.dbgCause := rfl
@[simp] theorem clear_input (s : State) : (clear s).input = s.input := rfl

/-! ### report -/

@[simp] theorem report_cfg (c : Cause) (s : State) : (report c s).cfg = s.cfg := rfl
@[simp] theorem report_st (c : Cause) (s : State) : (report c s).st = s.st := rfl
@[simp] theorem report_crs (c : Cause) (s : State) : (report c s).crs = s.crs := rfl
@[simp] theorem report_acc (c : Cause) (s : State) : (report c s).acc = s.acc := rfl
@[simp] theorem report_lbuf (c : Cause) (s : State) : (report c s).lbuf = s.lbuf := rfl
@[simp] theorem report_vbuf (c : Cause) (s : State) : (report c s).vbuf = s.vbuf := rfl
@[simp] theorem report_record (c : Cause) (s : State) : (report c s).record = s.record := rfl
@[simp] theorem report_hbuf (c : Cause) (s : State) : (report c s).hbuf = s.hbuf := rfl
@[simp] theorem report_hnib (c : Cause) (s : State) : (report c s).hnib = s.hnib := rfl
@[simp] theorem report_hph (c : Cause) (s : State) : (report c s).hph = s.hph := rfl
@[simp] theorem report_hbad (c : Cause) (s : State) : (report c s).hbad = s.hbad := rfl
@[simp] theorem report_outValid (c : Cause) (s : State) : (report c s).outValid = s.outValid := rfl
@[simp] theorem report_outUnit (c : Cause) (s : State) : (report c s).outUnit = s.outUnit := rfl
@[simp] theorem report_dbgDrop (c : Cause) (s : State) : (report c s).dbgDrop = true := rfl
@[simp] theorem report_dbgCause (c : Cause) (s : State) : (report c s).dbgCause = causeCode c := rfl
@[simp] theorem report_input (c : Cause) (s : State) : (report c s).input = s.input := rfl

/-! ### emit -/

@[simp] theorem emit_cfg (u : OutUnit) (s : State) : (emit u s).cfg = s.cfg := rfl
@[simp] theorem emit_st (u : OutUnit) (s : State) : (emit u s).st = s.st := rfl
@[simp] theorem emit_crs (u : OutUnit) (s : State) : (emit u s).crs = s.crs := rfl
@[simp] theorem emit_acc (u : OutUnit) (s : State) : (emit u s).acc = s.acc := rfl
@[simp] theorem emit_lbuf (u : OutUnit) (s : State) : (emit u s).lbuf = s.lbuf := rfl
@[simp] theorem emit_vbuf (u : OutUnit) (s : State) : (emit u s).vbuf = s.vbuf := rfl
@[simp] theorem emit_record (u : OutUnit) (s : State) : (emit u s).record = s.record := rfl
@[simp] theorem emit_hbuf (u : OutUnit) (s : State) : (emit u s).hbuf = s.hbuf := rfl
@[simp] theorem emit_hnib (u : OutUnit) (s : State) : (emit u s).hnib = s.hnib := rfl
@[simp] theorem emit_hph (u : OutUnit) (s : State) : (emit u s).hph = s.hph := rfl
@[simp] theorem emit_hbad (u : OutUnit) (s : State) : (emit u s).hbad = s.hbad := rfl
@[simp] theorem emit_outValid (u : OutUnit) (s : State) : (emit u s).outValid = true := rfl
@[simp] theorem emit_outUnit (u : OutUnit) (s : State) : (emit u s).outUnit = some u := rfl
@[simp] theorem emit_dbgDrop (u : OutUnit) (s : State) : (emit u s).dbgDrop = s.dbgDrop := rfl
@[simp] theorem emit_dbgCause (u : OutUnit) (s : State) : (emit u s).dbgCause = s.dbgCause := rfl
@[simp] theorem emit_input (u : OutUnit) (s : State) : (emit u s).input = s.input := rfl

/-! ### discard -/

@[simp] theorem discard_cfg (c : Cause) (s : State) : (discard c s).cfg = s.cfg := rfl
@[simp] theorem discard_st (c : Cause) (s : State) : (discard c s).st = .idle := rfl
@[simp] theorem discard_crs (c : Cause) (s : State) : (discard c s).crs = false := rfl
@[simp] theorem discard_acc (c : Cause) (s : State) : (discard c s).acc = 0x00 := rfl
@[simp] theorem discard_lbuf (c : Cause) (s : State) : (discard c s).lbuf = [] := rfl
@[simp] theorem discard_vbuf (c : Cause) (s : State) : (discard c s).vbuf = [] := rfl
@[simp] theorem discard_record (c : Cause) (s : State) : (discard c s).record = [] := rfl
@[simp] theorem discard_hbuf (c : Cause) (s : State) : (discard c s).hbuf = [] := rfl
@[simp] theorem discard_hnib (c : Cause) (s : State) : (discard c s).hnib = 0x0 := rfl
@[simp] theorem discard_hph (c : Cause) (s : State) : (discard c s).hph = false := rfl
@[simp] theorem discard_hbad (c : Cause) (s : State) : (discard c s).hbad = false := rfl
@[simp] theorem discard_outValid (c : Cause) (s : State) : (discard c s).outValid = s.outValid := rfl
@[simp] theorem discard_outUnit (c : Cause) (s : State) : (discard c s).outUnit = s.outUnit := rfl
@[simp] theorem discard_dbgDrop (c : Cause) (s : State) : (discard c s).dbgDrop = true := rfl
@[simp] theorem discard_dbgCause (c : Cause) (s : State) : (discard c s).dbgCause = causeCode c := rfl
@[simp] theorem discard_input (c : Cause) (s : State) : (discard c s).input = s.input := rfl

/-! ### complete -/

@[simp] theorem complete_cfg (u : OutUnit) (s : State) : (complete u s).cfg = s.cfg := rfl
@[simp] theorem complete_st (u : OutUnit) (s : State) : (complete u s).st = .idle := rfl
@[simp] theorem complete_crs (u : OutUnit) (s : State) : (complete u s).crs = false := rfl
@[simp] theorem complete_acc (u : OutUnit) (s : State) : (complete u s).acc = 0x00 := rfl
@[simp] theorem complete_lbuf (u : OutUnit) (s : State) : (complete u s).lbuf = [] := rfl
@[simp] theorem complete_vbuf (u : OutUnit) (s : State) : (complete u s).vbuf = [] := rfl
@[simp] theorem complete_record (u : OutUnit) (s : State) : (complete u s).record = [] := rfl
@[simp] theorem complete_hbuf (u : OutUnit) (s : State) : (complete u s).hbuf = [] := rfl
@[simp] theorem complete_hnib (u : OutUnit) (s : State) : (complete u s).hnib = 0x0 := rfl
@[simp] theorem complete_hph (u : OutUnit) (s : State) : (complete u s).hph = false := rfl
@[simp] theorem complete_hbad (u : OutUnit) (s : State) : (complete u s).hbad = false := rfl
@[simp] theorem complete_outValid (u : OutUnit) (s : State) : (complete u s).outValid = true := rfl
@[simp] theorem complete_outUnit (u : OutUnit) (s : State) : (complete u s).outUnit = some u := rfl
@[simp] theorem complete_dbgDrop (u : OutUnit) (s : State) : (complete u s).dbgDrop = s.dbgDrop := rfl
@[simp] theorem complete_dbgCause (u : OutUnit) (s : State) : (complete u s).dbgCause = s.dbgCause := rfl
@[simp] theorem complete_input (u : OutUnit) (s : State) : (complete u s).input = s.input := rfl

/-! ### beginHexFrame -/

@[simp] theorem beginHexFrame_cfg (s : State) : (beginHexFrame s).cfg = s.cfg := rfl
@[simp] theorem beginHexFrame_st (s : State) : (beginHexFrame s).st = .readingHex := rfl
@[simp] theorem beginHexFrame_crs (s : State) : (beginHexFrame s).crs = s.crs := rfl
@[simp] theorem beginHexFrame_acc (s : State) : (beginHexFrame s).acc = 0x00 := rfl
@[simp] theorem beginHexFrame_lbuf (s : State) : (beginHexFrame s).lbuf = s.lbuf := rfl
@[simp] theorem beginHexFrame_vbuf (s : State) : (beginHexFrame s).vbuf = s.vbuf := rfl
@[simp] theorem beginHexFrame_record (s : State) : (beginHexFrame s).record = s.record := rfl
@[simp] theorem beginHexFrame_hbuf (s : State) : (beginHexFrame s).hbuf = [] := rfl
@[simp] theorem beginHexFrame_hnib (s : State) : (beginHexFrame s).hnib = 0x0 := rfl
@[simp] theorem beginHexFrame_hph (s : State) : (beginHexFrame s).hph = false := rfl
@[simp] theorem beginHexFrame_hbad (s : State) : (beginHexFrame s).hbad = false := rfl
@[simp] theorem beginHexFrame_outValid (s : State) : (beginHexFrame s).outValid = s.outValid := rfl
@[simp] theorem beginHexFrame_outUnit (s : State) : (beginHexFrame s).outUnit = s.outUnit := rfl
@[simp] theorem beginHexFrame_dbgDrop (s : State) : (beginHexFrame s).dbgDrop = s.dbgDrop := rfl
@[simp] theorem beginHexFrame_dbgCause (s : State) : (beginHexFrame s).dbgCause = s.dbgCause := rfl
@[simp] theorem beginHexFrame_input (s : State) : (beginHexFrame s).input = s.input := rfl

/-! ### startRecord -/

@[simp] theorem startRecord_cfg (b : Byte) (s : State) : (startRecord b s).cfg = s.cfg := rfl
@[simp] theorem startRecord_st (b : Byte) (s : State) : (startRecord b s).st = .readingLabel := rfl
@[simp] theorem startRecord_crs (b : Byte) (s : State) : (startRecord b s).crs = false := rfl
@[simp] theorem startRecord_acc (b : Byte) (s : State) : (startRecord b s).acc = s.cfg.checksumSeed + b := rfl
@[simp] theorem startRecord_lbuf (b : Byte) (s : State) : (startRecord b s).lbuf = [b] := rfl
@[simp] theorem startRecord_vbuf (b : Byte) (s : State) : (startRecord b s).vbuf = [] := rfl
@[simp] theorem startRecord_record (b : Byte) (s : State) : (startRecord b s).record = [] := rfl
@[simp] theorem startRecord_hbuf (b : Byte) (s : State) : (startRecord b s).hbuf = s.hbuf := rfl
@[simp] theorem startRecord_hnib (b : Byte) (s : State) : (startRecord b s).hnib = s.hnib := rfl
@[simp] theorem startRecord_hph (b : Byte) (s : State) : (startRecord b s).hph = s.hph := rfl
@[simp] theorem startRecord_hbad (b : Byte) (s : State) : (startRecord b s).hbad = s.hbad := rfl
@[simp] theorem startRecord_outValid (b : Byte) (s : State) : (startRecord b s).outValid = s.outValid := rfl
@[simp] theorem startRecord_outUnit (b : Byte) (s : State) : (startRecord b s).outUnit = s.outUnit := rfl
@[simp] theorem startRecord_dbgDrop (b : Byte) (s : State) : (startRecord b s).dbgDrop = s.dbgDrop := rfl
@[simp] theorem startRecord_dbgCause (b : Byte) (s : State) : (startRecord b s).dbgCause = s.dbgCause := rfl
@[simp] theorem startRecord_input (b : Byte) (s : State) : (startRecord b s).input = s.input := rfl

/-! ### withInput -/

@[simp] theorem withInput_cfg (es : List Edge) (s : State) : (withInput es s).cfg = s.cfg := rfl
@[simp] theorem withInput_st (es : List Edge) (s : State) : (withInput es s).st = s.st := rfl
@[simp] theorem withInput_crs (es : List Edge) (s : State) : (withInput es s).crs = s.crs := rfl
@[simp] theorem withInput_acc (es : List Edge) (s : State) : (withInput es s).acc = s.acc := rfl
@[simp] theorem withInput_lbuf (es : List Edge) (s : State) : (withInput es s).lbuf = s.lbuf := rfl
@[simp] theorem withInput_vbuf (es : List Edge) (s : State) : (withInput es s).vbuf = s.vbuf := rfl
@[simp] theorem withInput_record (es : List Edge) (s : State) : (withInput es s).record = s.record := rfl
@[simp] theorem withInput_hbuf (es : List Edge) (s : State) : (withInput es s).hbuf = s.hbuf := rfl
@[simp] theorem withInput_hnib (es : List Edge) (s : State) : (withInput es s).hnib = s.hnib := rfl
@[simp] theorem withInput_hph (es : List Edge) (s : State) : (withInput es s).hph = s.hph := rfl
@[simp] theorem withInput_hbad (es : List Edge) (s : State) : (withInput es s).hbad = s.hbad := rfl
@[simp] theorem withInput_outValid (es : List Edge) (s : State) : (withInput es s).outValid = s.outValid := rfl
@[simp] theorem withInput_outUnit (es : List Edge) (s : State) : (withInput es s).outUnit = s.outUnit := rfl
@[simp] theorem withInput_dbgDrop (es : List Edge) (s : State) : (withInput es s).dbgDrop = s.dbgDrop := rfl
@[simp] theorem withInput_dbgCause (es : List Edge) (s : State) : (withInput es s).dbgCause = s.dbgCause := rfl
@[simp] theorem withInput_input (es : List Edge) (s : State) : (withInput es s).input = es := rfl

/-! ### startValue -/

@[simp] theorem startValue_cfg (s : State) : (startValue s).cfg = s.cfg := rfl
@[simp] theorem startValue_st (s : State) : (startValue s).st = .readingValue := rfl
@[simp] theorem startValue_crs (s : State) : (startValue s).crs = false := rfl
@[simp] theorem startValue_acc (s : State) : (startValue s).acc = s.acc + TAB := rfl
@[simp] theorem startValue_lbuf (s : State) : (startValue s).lbuf = s.lbuf := rfl
@[simp] theorem startValue_vbuf (s : State) : (startValue s).vbuf = [] := rfl
@[simp] theorem startValue_record (s : State) : (startValue s).record = s.record := rfl
@[simp] theorem startValue_hbuf (s : State) : (startValue s).hbuf = s.hbuf := rfl
@[simp] theorem startValue_hnib (s : State) : (startValue s).hnib = s.hnib := rfl
@[simp] theorem startValue_hph (s : State) : (startValue s).hph = s.hph := rfl
@[simp] theorem startValue_hbad (s : State) : (startValue s).hbad = s.hbad := rfl
@[simp] theorem startValue_outValid (s : State) : (startValue s).outValid = s.outValid := rfl
@[simp] theorem startValue_outUnit (s : State) : (startValue s).outUnit = s.outUnit := rfl
@[simp] theorem startValue_dbgDrop (s : State) : (startValue s).dbgDrop = s.dbgDrop := rfl
@[simp] theorem startValue_dbgCause (s : State) : (startValue s).dbgCause = s.dbgCause := rfl
@[simp] theorem startValue_input (s : State) : (startValue s).input = s.input := rfl

/-! ### The state after reset -/

@[simp] theorem resetWith_cfg (c : Cfg) (es : List Edge) : (State.resetWith c es).cfg = c := rfl
@[simp] theorem resetWith_st (c : Cfg) (es : List Edge) : (State.resetWith c es).st = .idle := rfl
@[simp] theorem resetWith_crs (c : Cfg) (es : List Edge) : (State.resetWith c es).crs = false := rfl
@[simp] theorem resetWith_acc (c : Cfg) (es : List Edge) : (State.resetWith c es).acc = 0x00 := rfl
@[simp] theorem resetWith_lbuf (c : Cfg) (es : List Edge) : (State.resetWith c es).lbuf = [] := rfl
@[simp] theorem resetWith_vbuf (c : Cfg) (es : List Edge) : (State.resetWith c es).vbuf = [] := rfl
@[simp] theorem resetWith_record (c : Cfg) (es : List Edge) : (State.resetWith c es).record = [] := rfl
@[simp] theorem resetWith_hbuf (c : Cfg) (es : List Edge) : (State.resetWith c es).hbuf = [] := rfl
@[simp] theorem resetWith_hnib (c : Cfg) (es : List Edge) : (State.resetWith c es).hnib = 0x0 := rfl
@[simp] theorem resetWith_hph (c : Cfg) (es : List Edge) : (State.resetWith c es).hph = false := rfl
@[simp] theorem resetWith_hbad (c : Cfg) (es : List Edge) : (State.resetWith c es).hbad = false := rfl
@[simp] theorem resetWith_outValid (c : Cfg) (es : List Edge) : (State.resetWith c es).outValid = false := rfl
@[simp] theorem resetWith_outUnit (c : Cfg) (es : List Edge) : (State.resetWith c es).outUnit = none := rfl
@[simp] theorem resetWith_dbgDrop (c : Cfg) (es : List Edge) : (State.resetWith c es).dbgDrop = false := rfl
@[simp] theorem resetWith_dbgCause (c : Cfg) (es : List Edge) : (State.resetWith c es).dbgCause = 0x0 := rfl
@[simp] theorem resetWith_input (c : Cfg) (es : List Edge) : (State.resetWith c es).input = es := rfl

/-! ### The derived signals read only their own fields -/

@[simp] theorem isCk_startStep (s : State) : (startStep s).isCk = s.isCk := rfl
@[simp] theorem guard_startStep (s : State) : (startStep s).guard = s.guard := rfl
@[simp] theorem accValid_startStep (s : State) : (startStep s).accValid = s.accValid := rfl
@[simp] theorem hexValid_startStep (s : State) : (startStep s).hexValid ↔ s.hexValid := Iff.rfl
@[simp] theorem guard_crs (s : State) : s.guard.crs = s.crs := rfl
@[simp] theorem guard_isCk (s : State) : s.guard.isCk = s.isCk := rfl
@[simp] theorem guard_vlen (s : State) : s.guard.vlen = s.vbuf.length := rfl
@[simp] theorem guard_hbad (s : State) : s.guard.hbad = s.hbad := rfl
@[simp] theorem guard_withInput (es : List Edge) (s : State) : (withInput es s).guard = s.guard := rfl
@[simp] theorem isCk_withInput (es : List Edge) (s : State) : (withInput es s).isCk = s.isCk := rfl

/-! ### What a legal state is does not depend on the inputs to come, nor on the output register -/

@[simp] theorem legal_withInput (es : List Edge) (s : State) : (withInput es s).Legal ↔ s.Legal := Iff.rfl
@[simp] theorem withInput_withInput (es fs : List Edge) (s : State) : withInput es (withInput fs s) = withInput es s := rfl
@[simp] theorem withInput_self (s : State) : withInput s.input s = s := rfl

end Sys2Proof.Machine
end

