-- ==== Sys2Proof/Laws/Ops.lean ====
section
/-! SUPPORT. For each shared operation, one lemma that says all it can do. -/

namespace Sys2Proof.Machine

/-! ### Capacities -/

@[simp] theorem hasRoom_unbounded (n : Nat) : hasRoom .unbounded n = true := rfl

@[simp] theorem within_unbounded (n : Nat) : within .unbounded n = true := rfl

/-- One more element fits exactly where there is room. -/
theorem within_succ (cap : Capacity) (n : Nat) : within cap (n + 1) = hasRoom cap n := by
  cases cap with
  | unbounded => rfl
  | atMost k => simp [within, hasRoom]

theorem within_mono {cap : Capacity} {m n : Nat} (h : within cap n = true) (hm : m ≤ n) : within cap m = true := by
  cases cap with
  | unbounded => rfl
  | atMost k => simp only [within, decide_eq_true_eq] at h ⊢; omega

theorem within_of_hasRoom {cap : Capacity} {n : Nat} (h : hasRoom cap n = true) : within cap n = true :=
  within_mono (n := n + 1) (by rw [within_succ]; exact h) (Nat.le_succ n)

theorem within_of_atLeast {cap : Capacity} {k m : Nat} (h : cap.atLeast k = true) (hm : m ≤ k) : within cap m = true := by
  cases cap with
  | unbounded => rfl
  | atMost n => simp only [Capacity.atLeast, within, decide_eq_true_eq] at h ⊢; omega

/-! ### The record store -/

@[simp] theorem labels_nil : labels [] = [] := rfl

@[simp] theorem labels_append (r q : Record) : labels (r ++ q) = labels r ++ labels q := by simp [labels]

@[simp] theorem labels_length (r : Record) : (labels r).length = r.length := by simp [labels]

/-- Overwriting keeps every label at its position. -/
@[simp] theorem labels_overwrite (r : Record) (l v : ByteSeq) : labels (overwrite r l v) = labels r := by
  simp only [labels, overwrite, List.map_map]
  exact List.map_congr_left (fun f _ => by simp only [Function.comp]; split <;> rfl)

@[simp] theorem overwrite_length (r : Record) (l v : ByteSeq) : (overwrite r l v).length = r.length := by
  simp [overwrite]

/-- All that `insert` can do: overwrite, append, or overflow. -/
theorem insertField_cases (cap : Capacity) (r : Record) (l v : ByteSeq) :
    (l ∈ labels r ∧ insertField cap r l v = some (overwrite r l v)) ∨
    (l ∉ labels r ∧ hasRoom cap r.length = true ∧ insertField cap r l v = some (r ++ [⟨l, v⟩])) ∨
    (l ∉ labels r ∧ hasRoom cap r.length = false ∧ insertField cap r l v = none) := by
  unfold insertField
  by_cases hl : l ∈ labels r
  · exact .inl ⟨hl, by simp [hl]⟩
  · cases hr : hasRoom cap r.length with
    | true => exact .inr (.inl ⟨hl, rfl, by simp [hl]⟩)
    | false => exact .inr (.inr ⟨hl, rfl, by simp [hl]⟩)

/-- The labels after an insertion: as before where the label was there, else with the new label at the end. -/
theorem insertField_labels {cap : Capacity} {r r' : Record} {l v : ByteSeq} (h : insertField cap r l v = some r') :
    (l ∈ labels r ∧ labels r' = labels r) ∨ (l ∉ labels r ∧ labels r' = labels r ++ [l]) := by
  obtain ⟨hl, e⟩ | ⟨hl, -, e⟩ | ⟨-, -, e⟩ := insertField_cases cap r l v <;> rw [e] at h
  · cases h; exact .inl ⟨hl, labels_overwrite r l v⟩
  · cases h; exact .inr ⟨hl, labels_append r _⟩
  · cases h

/-- An insertion keeps labels distinct. -/
theorem insertField_nodup {cap : Capacity} {r r' : Record} {l v : ByteSeq} (h : insertField cap r l v = some r')
    (hr : (labels r).Nodup) : (labels r').Nodup := by
  obtain ⟨-, e⟩ | ⟨hl, e⟩ := insertField_labels h <;> rw [e]
  · exact hr
  · exact List.nodup_append.mpr ⟨hr, by simp, by simp; exact fun a ha e => hl (e ▸ ha)⟩

/-- An insertion keeps the record within its capacity. -/
theorem insertField_within {cap : Capacity} {r r' : Record} {l v : ByteSeq} (h : insertField cap r l v = some r')
    (hr : within cap r.length = true) : within cap r'.length = true := by
  obtain ⟨-, e⟩ | ⟨-, hroom, e⟩ | ⟨-, -, e⟩ := insertField_cases cap r l v <;> rw [e] at h
  · cases h; simpa using hr
  · cases h; simpa [within_succ] using hroom
  · cases h

/-! ### The frame of a transition -/

/-- Where its row applies in a legal state under an admitted configuration, a transition completes with its effect. -/
theorem transition_next {i : Instr} {s : State} (h : Ready i s) (effect : State → State) :
    transition i effect s = .next (effect (startStep s)) := by
  obtain ⟨hc, hl, hr⟩ := h
  rw [transition, if_pos hc, if_pos hl, if_pos hr]

/-- All that a transition can do: complete with its effect, or one of three refusals. -/
theorem transition_cases (i : Instr) (effect : State → State) (s : State) :
    (Ready i s ∧ transition i effect s = .next (effect (startStep s))) ∨
    (¬ s.cfg.Admitted ∧ transition i effect s = .refused .configRefused) ∨
    (s.cfg.Admitted ∧ ¬ s.Legal ∧ transition i effect s = .refused .invariantBroken) ∨
    (s.cfg.Admitted ∧ s.Legal ∧ i.rowApplies s.cfg s.st s.guard = false ∧
      transition i effect s = .refused .rowNotSelected) := by
  by_cases hc : s.cfg.Admitted
  · by_cases hl : s.Legal
    · cases hr : i.rowApplies s.cfg s.st s.guard with
      | true => exact .inl ⟨⟨hc, hl, hr⟩, transition_next ⟨hc, hl, hr⟩ effect⟩
      | false => exact .inr (.inr (.inr ⟨hc, hl, rfl, by rw [transition, if_pos hc, if_pos hl, if_neg (by simp [hr])]⟩))
    · exact .inr (.inr (.inl ⟨hc, hl, by rw [transition, if_pos hc, if_neg hl]⟩))
  · exact .inr (.inl ⟨hc, by rw [transition, if_neg hc]⟩)

/-- All that a discarding step does (44_frame_decoder.md R205): the reset state but for the diagnostic port, inputs kept. -/
theorem discard_startStep (c : Cause) (s : State) :
    discard c (startStep s) = { State.resetWith s.cfg s.input with dbgDrop := true, dbgCause := causeCode c } := rfl

/-- All that a completing step does (R206): the reset state but for the output register, inputs kept. -/
theorem complete_startStep (u : OutUnit) (s : State) :
    complete u (startStep s) = { State.resetWith s.cfg s.input with outValid := true, outUnit := some u } := rfl

/-- The effect of each instruction on a state whose output register and diagnostic port are at rest. -/
def effectOf : Instr → State → State
  | .idleMark => beginHexFrame
  | .idlePrint b => startRecord b
  | .idleSkip _ => fun s => s
  | .lblTab => startValue
  | .lblData b => appendLabel b
  | .lblTerm _ => discard .termInLabel
  | .valData b => appendValue b
  | .valCr => fun s => { s with crs := true, acc := accAdd s.acc CR }
  | .valBad _ => discard .badInValue
  | .valLf => flushField
  | .valNolf _ => discard .crWithoutLf
  | .ckByte b => fun s => { s with vbuf := [b], acc := accAdd s.acc b }
  | .ckCr => fun s => { s with crs := true }
  | .ckBad _ => discard .ckValueTooLong
  | .ckLf => finishRecord
  | .ckNolf _ => discard .crWithoutLf
  | .hexTerm => finishHexFrame
  | .hexMark => fun s => beginHexFrame (report .hexRestart s)
  | .hexDigit b => takeDigit b
  | .hexJunk _ => fun s => { s with hbad := true }
  | .hexSkip _ => fun s => s

/-- Every meaning is its effect in the frame of a transition. -/
theorem exec_eq_transition (i : Instr) (s : State) : exec i s = transition i (effectOf i) s := by
  cases i <;> rfl

/-- Where it may run, an instruction completes with its effect. -/
theorem exec_next {i : Instr} {s : State} (h : Ready i s) : exec i s = .next (effectOf i (startStep s)) := by
  rw [exec_eq_transition, transition_next h]

/-- An instruction that answers a next state was ready, and that state is its effect. -/
theorem ready_of_exec_next {i : Instr} {s t : State} (h : exec i s = .next t) :
    Ready i s ∧ t = effectOf i (startStep s) := by
  rw [exec_eq_transition] at h
  obtain ⟨hr, e⟩ | ⟨-, e⟩ | ⟨-, -, e⟩ | ⟨-, -, -, e⟩ := transition_cases i (effectOf i) s <;> rw [e] at h
  · cases h; exact ⟨hr, rfl⟩
  all_goals cases h

/-! ### Digits -/

@[simp] theorem byteSum_nil : byteSum [] = 0 := rfl

@[simp] theorem byteSum_cons (b : Byte) (bs : ByteSeq) : byteSum (b :: bs) = b + byteSum bs := rfl

/-- The sum of two sequences one after the other. -/
@[simp] theorem byteSum_append (p q : ByteSeq) : byteSum (p ++ q) = byteSum p + byteSum q := by
  induction p with
  | nil => simp
  | cons b p ih => simp [ih, BitVec.add_assoc]

end Sys2Proof.Machine
end

