-- ==== Sys2Proof/Laws/Invariant.lean ====
section
/-! SUPPORT. How a legal state is taken apart and put together (10_state.md R33), and that the resting states are legal. -/

namespace Sys2Proof.Machine

/-- The three columns of the transition map. -/
theorem rowApplies_iff {i : Instr} {cfg : Cfg} {st : St} {g : Guard} :
    i.rowApplies cfg st g = true ↔ i.st = st ∧ i.guardHolds g = true ∧ i.wellFormed cfg = true := by
  simp [Instr.rowApplies, and_assoc]

/-! ### R33 for one state register value -/

theorem shapeHolds_idle {s : State} (h : s.st = .idle) : s.shapeHolds = true ↔ s.IdleShape := by
  rw [State.shapeHolds, h]; exact decide_eq_true_iff

theorem shapeHolds_label {s : State} (h : s.st = .readingLabel) : s.shapeHolds = true ↔ s.LabelShape := by
  rw [State.shapeHolds, h]; exact decide_eq_true_iff

theorem shapeHolds_value {s : State} (h : s.st = .readingValue) : s.shapeHolds = true ↔ s.ValueShape := by
  rw [State.shapeHolds, h]; exact decide_eq_true_iff

theorem shapeHolds_hex {s : State} (h : s.st = .readingHex) : s.shapeHolds = true ↔ s.HexShape := by
  rw [State.shapeHolds, h]; exact decide_eq_true_iff

@[simp] theorem within_zero (cap : Capacity) : within cap 0 = true := by cases cap <;> simp [within]

/-! ### Resting states -/

/-- In IDLE with nothing in progress a state is legal. -/
theorem legal_of_idleShape {s : State} (hst : s.st = .idle) (h : s.IdleShape) (hd : s.dbgCause.toNat ≤ 0xA) : s.Legal := by
  refine ⟨(shapeHolds_idle hst).mpr h, ?_, ?_⟩
  · obtain ⟨-, -, hl, hv, hr, hh, -⟩ := h
    simp [State.WithinCapacity, hl, hv, hr, hh]
  · exact ⟨by simp [h.2.2.2.2.2.1], hd⟩

theorem causeCode_le (c : Cause) : (causeCode c).toNat ≤ 0xA := by cases c <;> decide

theorem legal_discard (c : Cause) (s : State) : (discard c s).Legal :=
  legal_of_idleShape rfl (by simp [State.IdleShape]) (causeCode_le c)

theorem legal_complete (u : OutUnit) {s : State} (h : s.dbgCause.toNat ≤ 0xA) : (complete u s).Legal :=
  legal_of_idleShape rfl (by simp [State.IdleShape]) h

theorem legal_resetWith (c : Cfg) (es : List Edge) : (State.resetWith c es).Legal :=
  legal_of_idleShape rfl (by simp [State.IdleShape]) (by simp)

/-- Being ready does not depend on the output register or the edges to come. -/
theorem ready_startStep {i : Instr} {s : State} (h : Ready i s) : Ready i (startStep s) :=
  ⟨h.1, ⟨h.2.1.1, h.2.1.2.1, h.2.1.2.2.1, by simp⟩, h.2.2⟩

theorem ready_withInput {i : Instr} {s : State} (es : List Edge) (h : Ready i s) : Ready i (withInput es s) := h

end Sys2Proof.Machine
end

