-- ==== Sys2Proof/Laws/PerInstr.lean ====
section
/-! SUPPORT. One lemma per constructor: the operation word of the instruction holds its row's state and its byte (30_encoding.md
R84), whatever the configuration. -/

namespace Sys2Proof.Laws.OperationWord

/-- The word's state field is the instruction's state column and its byte field the instruction's byte (R79, R84). -/
def Statement (i : Instr) : Prop :=
  ∀ cfg : Cfg, wordState (encode cfg i) = i.st ∧ wordByte (encode cfg i) = i.byte cfg

theorem of_any (i : Instr) : Statement i := fun cfg => ⟨wordState_opWord i.st (i.byte cfg), wordByte_opWord i.st (i.byte cfg)⟩

theorem idleMark : Statement .idleMark := of_any _
theorem idlePrint (b : Byte) : Statement (.idlePrint b) := of_any _
theorem idleSkip (b : Byte) : Statement (.idleSkip b) := of_any _
theorem lblTab : Statement .lblTab := of_any _
theorem lblData (b : Byte) : Statement (.lblData b) := of_any _
theorem lblTerm (b : Byte) : Statement (.lblTerm b) := of_any _
theorem valData (b : Byte) : Statement (.valData b) := of_any _
theorem valCr : Statement .valCr := of_any _
theorem valBad (b : Byte) : Statement (.valBad b) := of_any _
theorem valLf : Statement .valLf := of_any _
theorem valNolf (b : Byte) : Statement (.valNolf b) := of_any _
theorem ckByte (b : Byte) : Statement (.ckByte b) := of_any _
theorem ckCr : Statement .ckCr := of_any _
theorem ckBad (b : Byte) : Statement (.ckBad b) := of_any _
theorem ckLf : Statement .ckLf := of_any _
theorem ckNolf (b : Byte) : Statement (.ckNolf b) := of_any _
theorem hexTerm : Statement .hexTerm := of_any _
theorem hexMark : Statement .hexMark := of_any _
theorem hexDigit (b : Byte) : Statement (.hexDigit b) := of_any _
theorem hexJunk (b : Byte) : Statement (.hexJunk b) := of_any _
theorem hexSkip (b : Byte) : Statement (.hexSkip b) := of_any _

end Sys2Proof.Laws.OperationWord
end

