-- ==== Sys2Proof/Laws/Step.lean ====
section
/-! SUPPORT. All that one step can do, and what a byte fed in a legal state leads to. -/

namespace Sys2Proof.Machine

/-- A legal state has guard values the core can reach (10_state.md R33). -/
theorem guard_reachable {s : State} (h : s.Legal) : s.guard.Reachable s.st := by
  have hs := h.1
  unfold State.shapeHolds at hs
  refine ⟨fun hst => ?_, fun hst => ?_, fun hst hck => ?_⟩
  · split at hs <;> simp_all
  · split at hs <;> simp_all
  · rw [hst] at hs
    exact (of_decide_eq_true hs).2 hck

/-- In a legal state the row that the dispatch selects may run. -/
theorem ready_select {s : State} (hc : s.cfg.Admitted) (hl : s.Legal) (b : Byte) :
    Ready (select s.cfg s.st s.guard b) s :=
  ⟨hc, hl, select_rowApplies _ _ _ _ (guard_reachable hl)⟩

/-- No effect reads the edges to come. -/
theorem effectOf_withInput (i : Instr) (es : List Edge) (s : State) :
    effectOf i (startStep (withInput es s)) = withInput es (effectOf i (startStep s)) := by
  cases i <;> simp only [effectOf, appendLabel, appendValue, flushField, finishRecord, finishHexFrame, takeDigit] <;>
    (repeat' split) <;> first | rfl | simp_all [startStep, withInput, State.accValid, State.hexValid, complete, emit, clear]

/-- No effect writes the inputs. -/
theorem effectOf_inputs (i : Instr) (s : State) : (effectOf i s).cfg = s.cfg ∧ (effectOf i s).input = s.input := by
  cases i <;>
    simp only [effectOf, appendLabel, appendValue, flushField, finishRecord, finishHexFrame, takeDigit] <;>
    (repeat' split) <;> first | exact ⟨rfl, rfl⟩ | exact ⟨trivial, trivial⟩

/-- All that an edge can lead to. -/
theorem onEdge_cases (e : Edge) (s : State) :
    (∃ r, onEdge e s = .stop r) ∨
    (e.rst = true ∧ (e.cfg.getD s.cfg).Admitted ∧ onEdge e s = .hold (State.resetWith (e.cfg.getD s.cfg) s.input)) ∨
    (e.rst = false ∧ e.cfg.getD s.cfg = s.cfg ∧ s.cfg.Admitted ∧ s.Legal ∧ e.offers = [] ∧ onEdge e s = .hold s) ∨
    (e.rst = false ∧ e.cfg.getD s.cfg = s.cfg ∧ s.cfg.Admitted ∧ s.Legal ∧ ∃ b, e.offers = [b] ∧
      onEdge e s = .run (select s.cfg s.st s.guard b) s) := by
  by_cases h2 : 2 ≤ e.offers.length
  · exact .inl ⟨_, by rw [onEdge, if_pos h2]⟩
  cases hr : e.rst with
  | true =>
    by_cases hc : (e.cfg.getD s.cfg).Admitted
    · exact .inr (.inl ⟨rfl, hc, by rw [onEdge, if_neg h2, if_pos hr, resetEdge, if_pos hc]⟩)
    · exact .inl ⟨_, by rw [onEdge, if_neg h2, if_pos hr, resetEdge, if_neg hc]⟩
  | false =>
    have hrun : onEdge e s = runEdge e s := by rw [onEdge, if_neg h2, if_neg (by simp [hr])]
    rw [hrun]
    by_cases hg : e.cfg.getD s.cfg = s.cfg
    · by_cases hc : s.cfg.Admitted
      · by_cases hl : s.Legal
        · cases ho : e.offers with
          | nil =>
            exact .inr (.inr (.inl ⟨rfl, hg, hc, hl, rfl, by rw [runEdge, if_pos hg, if_pos hc, if_pos hl, ho]⟩))
          | cons b bs =>
            have hbs : bs = [] := by
              cases bs with
              | nil => rfl
              | cons _ _ => simp [ho] at h2
            subst hbs
            refine .inr (.inr (.inr ⟨rfl, hg, hc, hl, b, rfl, ?_⟩))
            rw [runEdge, if_pos hg, if_pos hc, if_pos hl, ho]
            simp only [decode_opWord hc]
        · exact .inl ⟨_, by rw [runEdge, if_pos hg, if_pos hc, if_neg hl]⟩
      · exact .inl ⟨_, by rw [runEdge, if_pos hg, if_neg hc]⟩
    · exact .inl ⟨_, by rw [runEdge, if_neg hg]⟩

/-- All that a step which answers a next state can have done: reset, hold, or run the selected row. -/
theorem step_next_cases {s t : State} (h : step s = .next t) :
    (∃ c es, c.Admitted ∧ t = State.resetWith c es) ∨
    (∃ es, s.cfg.Admitted ∧ s.Legal ∧ t = withInput es s) ∨
    (∃ es b, s.cfg.Admitted ∧ s.Legal ∧
      t = effectOf (select s.cfg s.st s.guard b) (startStep (withInput es s))) := by
  have key : ∀ (e : Edge) (es : List Edge), fetch s = onEdge e (withInput es s) →
      (∃ c es, c.Admitted ∧ t = State.resetWith c es) ∨
      (∃ es, s.cfg.Admitted ∧ s.Legal ∧ t = withInput es s) ∨
      (∃ es b, s.cfg.Admitted ∧ s.Legal ∧
        t = effectOf (select s.cfg s.st s.guard b) (startStep (withInput es s))) := fun e es hf => by
    rw [step, hf] at h
    obtain ⟨r, hr⟩ | ⟨-, hc, hr⟩ | ⟨-, -, hc, hl, -, hr⟩ | ⟨-, -, hc, hl, b, -, hr⟩ := onEdge_cases e (withInput es s)
    · rw [hr] at h; cases h
    · rw [hr] at h; cases h; exact .inl ⟨_, _, hc, rfl⟩
    · rw [hr] at h; cases h; exact .inr (.inl ⟨_, hc, hl, rfl⟩)
    · rw [hr] at h
      have hx := exec_next (ready_select hc hl b)
      simp only at h
      rw [hx] at h; cases h
      exact .inr (.inr ⟨es, b, hc, hl, rfl⟩)
  cases hi : s.input with
  | nil =>
    refine key idleEdge [] ?_
    rw [fetch, hi]
    exact congrArg (onEdge idleEdge) (by rw [← hi]; rfl)
  | cons e es => exact key e es (by rw [fetch, hi])

/-- A byte fed in a legal state runs the row the dispatch selects; the edges to come are kept. -/
theorem feed_legal {s : State} (hc : s.cfg.Admitted) (hl : s.Legal) (b : Byte) :
    feed s b = .next (effectOf (select s.cfg s.st s.guard b) (startStep s)) := by
  have hf : fetch (withInput (byteEdge b :: s.input) s) = onEdge (byteEdge b) s := rfl
  rw [feed, step, hf]
  obtain ⟨r, hr⟩ | ⟨hrst, -⟩ | ⟨-, -, -, -, ho, -⟩ | ⟨-, -, -, -, c, ho, hr⟩ := onEdge_cases (byteEdge b) s
  · have : onEdge (byteEdge b) s = .run (select s.cfg s.st s.guard b) s := by
      rw [onEdge, if_neg (by simp [byteEdge]), if_neg (by simp [byteEdge]), runEdge, if_pos (by simp [byteEdge]),
        if_pos hc, if_pos hl]
      simp only [byteEdge, decode_opWord hc]
    rw [this]
    exact exec_next (ready_select hc hl b)
  · exact absurd hrst (by simp [byteEdge])
  · exact absurd ho (by simp [byteEdge])
  · obtain rfl : b = c := by simpa [byteEdge] using ho
    rw [hr]
    exact exec_next (ready_select hc hl b)

end Sys2Proof.Machine
end

