-- ==== Sys2Proof/Laws/Stream.lean ====
section
/-! SUPPORT. What the run of a stream and the prefixes of a stream can be. -/

namespace Sys2Proof.Machine

@[simp] theorem run_nil (s : State) : run s [] = .next (s, []) := rfl

/-- All that a run whose first byte completes can do: the rest runs from there, with the first step's unit in front. -/
theorem run_cons_next {s t u : State} {b : Byte} {bs : List Byte} {us : List OutUnit} (hb : feed s b = .next t)
    (hbs : run t bs = .next (u, us)) : run s (b :: bs) = .next (u, t.outUnit.toList ++ us) := by
  rw [run, hb]
  simp only [hbs]

@[simp] theorem first_zero (stream : InputStream) : stream.first 0 = [] := by
  cases stream <;> rfl

/-- A longer prefix of a stream begins with a shorter one. -/
theorem first_prefix {m n : Nat} (h : m ≤ n) (stream : InputStream) : stream.first m <+: stream.first n := by
  cases stream with
  | finite bs => exact List.take_prefix_take_left h
  | infinite byteAt => exact List.IsPrefix.map byteAt (by rw [List.prefix_iff_eq_take]; simp [List.take_range, h])

/-- A finite stream is a prefix of itself. -/
theorem first_finite_length (bs : List Byte) : (InputStream.finite bs).first bs.length = bs := List.take_length

end Sys2Proof.Machine
end

