-- ==== Sys2Proof/Tests/Slice0.lean ====
section
/-! SUPPORT. Tests of the model: ill-formed terms refused, every constructor's word decoded, one small step of each instruction
with the values of 95_test_vectors.md, and for each statement with hypotheses a witness that meets them. -/

namespace Sys2Proof.Tests

open Sys2Proof.Machine

/-! ### Helpers -/

/-- One view of the next state; `none` where the outcome is no next state. -/
def peek {α : Type} (view : State → α) : Result → Option α
  | .next s => some (view s)
  | .fault _ => none
  | .refused _ => none

/-- The refusal an outcome names. -/
def refusalOf : Result → Option Refusal
  | .next _ => none
  | .fault _ => none
  | .refused r => some r

/-- READING_LABEL with label `l` and sum `a`. -/
def inLabel (l : ByteSeq) (a : Byte) : State := { State.reset with st := .readingLabel, lbuf := l, acc := a }

/-- READING_VALUE with label `l`, value `v`, sum `a` and `crs`. -/
def inValue (l v : ByteSeq) (a : Byte) (crs : Bool) : State :=
  { State.reset with st := .readingValue, lbuf := l, vbuf := v, acc := a, crs := crs }

/-- READING_HEX with payload `h` and sum `a`. -/
def inHex (h : ByteSeq) (a : Byte) : State := { State.reset with st := .readingHex, hbuf := h, acc := a }

/-- The smallest capacities R9 admits. -/
def tiny : Cfg :=
  { Cfg.ref with maxLabel := .atMost 8, maxValue := .atMost 1, maxFields := .atMost 1, maxHex := .atMost 2 }

/-- No capacity bounds anything (R7). -/
def vast : Cfg :=
  { Cfg.ref with maxLabel := .unbounded, maxValue := .unbounded, maxFields := .unbounded, maxHex := .unbounded }

/-- A HEX payload begins with a lone digit (R7). -/
def nibbled : Cfg := { Cfg.ref with hexLeadingNibble := true }

/-- `s` with the edge that offers one byte next. -/
def offered (b : Byte) (s : State) : State := { s with input := [{ offers := [b] }] }

/-! ### WellFormed: each check refuses an ill-formed term (00_scope.md R9, 30_encoding.md R79) -/

theorem test_ref_admitted : Cfg.ref.Admitted := by decide
theorem test_tiny_admitted : tiny.Admitted := by decide
theorem test_vast_admitted : vast.Admitted := by decide
theorem test_marker_tab_refused : ¬ { Cfg.ref with hexMarker := 0x09 : Cfg }.Admitted := by decide
theorem test_marker_cr_refused : ¬ { Cfg.ref with hexMarker := 0x0D : Cfg }.Admitted := by decide
theorem test_marker_lf_refused :
    ¬ { Cfg.ref with hexMarker := 0x0A, hexTerminator := 0x0D : Cfg }.Admitted := by decide
theorem test_marker_digit_refused : ¬ { Cfg.ref with hexMarker := 0x61 : Cfg }.Admitted := by decide
theorem test_terminator_digit_refused : ¬ { Cfg.ref with hexTerminator := 0x46 : Cfg }.Admitted := by decide
theorem test_terminator_is_marker_refused : ¬ { Cfg.ref with hexTerminator := 0x3A : Cfg }.Admitted := by decide
theorem test_short_label_refused : ¬ { Cfg.ref with maxLabel := .atMost 7 : Cfg }.Admitted := by decide
theorem test_no_value_refused : ¬ { Cfg.ref with maxValue := .atMost 0 : Cfg }.Admitted := by decide
theorem test_no_fields_refused : ¬ { Cfg.ref with maxFields := .atMost 0 : Cfg }.Admitted := by decide
theorem test_short_hex_refused : ¬ { Cfg.ref with maxHex := .atMost 1 : Cfg }.Admitted := by decide
theorem test_short_hex_admitted_with_nibble : { nibbled with maxHex := .atMost 1 : Cfg }.Admitted := by decide

/-- Each class check refuses a byte of another class (class table of R78). -/
theorem test_ill_formed_operands :
    (Instr.idlePrint 0x3A).wellFormed Cfg.ref = false ∧ (Instr.idleSkip 0x20).wellFormed Cfg.ref = false ∧
    (Instr.lblData 0x09).wellFormed Cfg.ref = false ∧ (Instr.lblTerm 0x41).wellFormed Cfg.ref = false ∧
    (Instr.valData 0x0D).wellFormed Cfg.ref = false ∧ (Instr.valBad 0x0D).wellFormed Cfg.ref = false ∧
    (Instr.valNolf 0x0A).wellFormed Cfg.ref = false ∧ (Instr.ckBad 0x0D).wellFormed Cfg.ref = false ∧
    (Instr.ckNolf 0x0A).wellFormed Cfg.ref = false ∧ (Instr.hexDigit 0x47).wellFormed Cfg.ref = false ∧
    (Instr.hexJunk 0x46).wellFormed Cfg.ref = false ∧ (Instr.hexSkip 0x0A).wellFormed Cfg.ref = false := by decide

/-! ### Decode: every constructor from a word written out from R84 (`st` in the two high bits, then the byte) -/

theorem test_decode_idleMark : decode Cfg.ref {} 0b0000111010 = .ok .idleMark := by rfl
theorem test_decode_idlePrint : decode Cfg.ref {} 0b0001111110 = .ok (.idlePrint 0x7E) := by rfl
theorem test_decode_idleSkip : decode Cfg.ref {} 0b0001111111 = .ok (.idleSkip 0x7F) := by rfl
theorem test_decode_lblTab : decode Cfg.ref {} 0b0100001001 = .ok .lblTab := by rfl
theorem test_decode_lblData : decode Cfg.ref {} 0b0100111010 = .ok (.lblData 0x3A) := by rfl
theorem test_decode_lblTerm : decode Cfg.ref {} 0b0100001101 = .ok (.lblTerm 0x0D) := by rfl
theorem test_decode_valData : decode Cfg.ref {} 0b1011111111 = .ok (.valData 0xFF) := by rfl
theorem test_decode_valCr : decode Cfg.ref {} 0b1000001101 = .ok .valCr := by rfl
theorem test_decode_valBad : decode Cfg.ref {} 0b1000001010 = .ok (.valBad 0x0A) := by rfl
theorem test_decode_valLf : decode Cfg.ref { crs := true } 0b1000001010 = .ok .valLf := by rfl
theorem test_decode_valNolf : decode Cfg.ref { crs := true } 0b1000001101 = .ok (.valNolf 0x0D) := by rfl
theorem test_decode_ckByte : decode Cfg.ref { isCk := true } 0b1000001010 = .ok (.ckByte 0x0A) := by rfl
theorem test_decode_ckCr : decode Cfg.ref { isCk := true, vlen := 1 } 0b1000001101 = .ok .ckCr := by rfl
theorem test_decode_ckBad : decode Cfg.ref { isCk := true, vlen := 1 } 0b1000001010 = .ok (.ckBad 0x0A) := by rfl
theorem test_decode_ckLf : decode Cfg.ref { isCk := true, vlen := 1, crs := true } 0b1000001010 = .ok .ckLf := by rfl
theorem test_decode_ckNolf :
    decode Cfg.ref { isCk := true, vlen := 1, crs := true } 0b1000001101 = .ok (.ckNolf 0x0D) := by rfl
theorem test_decode_hexTerm : decode Cfg.ref { hbad := true } 0b1100001010 = .ok .hexTerm := by rfl
theorem test_decode_hexMark : decode Cfg.ref { hbad := true } 0b1100111010 = .ok .hexMark := by rfl
theorem test_decode_hexDigit : decode Cfg.ref {} 0b1101100110 = .ok (.hexDigit 0x66) := by rfl
theorem test_decode_hexJunk : decode Cfg.ref {} 0b1101100111 = .ok (.hexJunk 0x67) := by rfl
theorem test_decode_hexSkip : decode Cfg.ref { hbad := true } 0b1100001101 = .ok (.hexSkip 0x0D) := by rfl
theorem test_decode_wide_refused : decode Cfg.ref {} 0b10000000000 = .error .widerThanOperationWord := by rfl

/-- The words opcode_table.json gives as `match`, read as its rows' bits; a word two rows share is read as one of them
(log 8). -/
theorem test_table_words :
    decodeTableWord 16 0x03A = some .idleMark ∧ decodeTableWord 16 0x109 = some .lblTab ∧
    decodeTableWord 16 0x20D = some .valCr ∧ decodeTableWord 16 0x20A = some .valLf ∧
    decodeTableWord 16 0x200 = some (.ckByte 0x00) ∧ decodeTableWord 16 0x30A = some .hexTerm ∧
    decodeTableWord 16 0x33A = some .hexMark := by decide

/-! ### One step of each instruction; the values are those of the vectors named (95_test_vectors.md) -/

/-- V4 and R171. -/
theorem test_idleMark : peek (fun t => (t.st, t.acc, t.hbuf)) (exec .idleMark State.reset) =
    some (.readingHex, 0x00, []) := by decide

/-- V1, step 1. -/
theorem test_idlePrint : peek (fun t => (t.st, t.acc, t.lbuf)) (exec (.idlePrint 0x50) State.reset) =
    some (.readingLabel, 0x50, [0x50]) := by decide

/-- R102: the seed is in the sum. -/
theorem test_idlePrint_seed :
    peek (fun t => t.acc) (exec (.idlePrint 0x50) { State.reset with cfg := { Cfg.ref with checksumSeed := 0xF0 } }) =
      some 0x40 := by decide

/-- R211: the unit of the step before is gone from the output register (R280), nothing else changes. -/
theorem test_idleSkip :
    peek id (exec (.idleSkip 0x80) { State.reset with outValid := true, outUnit := some (.hexFrame [0x30, 0x35]) }) =
      some State.reset := by decide

/-- V1, step 4. -/
theorem test_lblTab : peek (fun t => (t.st, t.acc, t.lbuf, t.vbuf)) (exec .lblTab (inLabel [0x50, 0x49, 0x44] 0xDD)) =
    some (.readingValue, 0xE6, [0x50, 0x49, 0x44], []) := by decide

/-- V1, step 2. -/
theorem test_lblData : peek (fun t => (t.lbuf, t.acc)) (exec (.lblData 0x49) (inLabel [0x50] 0x50)) =
    some ([0x50, 0x49], 0x99) := by decide

/-- R122 and R242: the 17th byte of a label of at most 16. -/
theorem test_lblData_overflow :
    peek (fun t => (t.st, t.lbuf, t.acc, t.dbgCause)) (exec (.lblData 0x41) (inLabel (List.replicate 16 0x41) 0x10)) =
      some (.idle, [], 0x00, 0x2) := by decide

/-- R123. -/
theorem test_lblTerm : peek (fun t => (t.st, t.lbuf, t.dbgDrop, t.dbgCause)) (exec (.lblTerm 0x0A) (inLabel [0x56] 0x56)) =
    some (.idle, [], true, 0x1) := by decide

/-- V1, step 6. -/
theorem test_valData : peek (fun t => (t.vbuf, t.acc)) (exec (.valData 0x78) (inValue [0x50] [0x30] 0x16 false)) =
    some ([0x30, 0x78], 0x8E) := by decide

/-- R143 and R242: the second byte of a value of at most one. -/
theorem test_valData_overflow :
    peek (fun t => (t.st, t.vbuf, t.dbgCause)) (exec (.valData 0x30) { inValue [0x56] [0x31] 0x90 false with cfg := tiny }) =
      some (.idle, [], 0x4) := by decide

/-- V1, step 11. -/
theorem test_valCr : peek (fun t => (t.crs, t.acc, t.st)) (exec .valCr (inValue [0x50] [0x30] 0x65 false)) =
    some (true, 0x72, .readingValue) := by decide

/-- R145. -/
theorem test_valBad : peek (fun t => (t.st, t.vbuf, t.dbgCause)) (exec (.valBad 0x09) (inValue [0x56] [0x31] 0x90 false)) =
    some (.idle, [], 0x3) := by decide

/-- V1, step 12, on a shorter field. -/
theorem test_valLf :
    peek (fun t => (t.st, t.acc, t.crs, t.lbuf, t.record)) (exec .valLf (inValue [0x56] [0x31] 0x72 true)) =
      some (.readingLabel, 0x7C, false, [], [⟨[0x56], [0x31]⟩]) := by decide

/-- R141: a label seen before keeps its position and takes the new value. -/
theorem test_valLf_duplicate :
    peek (fun t => t.record)
      (exec .valLf { inValue [0x56] [0x32] 0x00 true with record := [⟨[0x56], [0x31]⟩, ⟨[0x49], [0x30]⟩] }) =
      some [⟨[0x56], [0x32]⟩, ⟨[0x49], [0x30]⟩] := by decide

/-- R147. -/
theorem test_valNolf : peek (fun t => (t.st, t.crs, t.dbgCause)) (exec (.valNolf 0x0D) (inValue [0x56] [0x31] 0x9D true)) =
    some (.idle, false, 0x5) := by decide

/-- V1, step 38. -/
theorem test_ckByte : peek (fun t => (t.vbuf, t.acc, t.st)) (exec (.ckByte 0xDC) (inValue CK_LABEL [] 0x24 false)) =
    some ([0xDC], 0x00, .readingValue) := by decide

/-- V1, step 39: the sum does not take the CR in. -/
theorem test_ckCr : peek (fun t => (t.crs, t.acc)) (exec .ckCr (inValue CK_LABEL [0xDC] 0x00 false)) =
    some (true, 0x00) := by decide

/-- R151. -/
theorem test_ckBad : peek (fun t => (t.st, t.dbgCause)) (exec (.ckBad 0x41) (inValue CK_LABEL [0xDC] 0x00 false)) =
    some (.idle, 0x6) := by decide

/-- V1, step 40, with one field. -/
theorem test_ckLf :
    peek (fun t => (t.st, t.outValid, t.outUnit, t.record))
      (exec .ckLf { inValue CK_LABEL [0xDC] 0x00 true with record := [⟨[0x49], [0x2D, 0x31, 0x30]⟩] }) =
      some (.idle, true, some (.record [⟨[0x49], [0x2D, 0x31, 0x30]⟩, ⟨CK_LABEL, [0xDC]⟩]), []) := by decide

/-- V2, item 1: the sum is off by 1. -/
theorem test_ckLf_mismatch :
    peek (fun t => (t.st, t.outValid, t.dbgCause)) (exec .ckLf (inValue CK_LABEL [0xDC] 0x01 true)) =
      some (.idle, false, 0x8) := by decide

/-- R153. -/
theorem test_ckNolf : peek (fun t => (t.st, t.dbgCause)) (exec (.ckNolf 0x41) (inValue CK_LABEL [0xDC] 0x00 true)) =
    some (.idle, 0x5) := by decide

/-- V4: `:0154` is valid. -/
theorem test_hexTerm :
    peek (fun t => (t.st, t.outUnit, t.hbuf, t.acc)) (exec .hexTerm (inHex [0x30, 0x31, 0x35, 0x34] 0x55)) =
      some (.idle, some (.hexFrame [0x30, 0x31, 0x35, 0x34]), [], 0x00) := by decide

/-- R173 and R174: an empty payload is not valid. -/
theorem test_hexTerm_empty : peek (fun t => (t.st, t.outValid, t.dbgCause)) (exec .hexTerm (inHex [] 0x00)) =
    some (.idle, false, 0x9) := by decide

/-- R175. -/
theorem test_hexMark :
    peek (fun t => (t.st, t.hbuf, t.acc, t.dbgDrop, t.dbgCause)) (exec .hexMark (inHex [0x30, 0x31] 0x01)) =
      some (.readingHex, [], 0x00, true, 0xA) := by decide

/-- R177: the high digit of a pair is held. -/
theorem test_hexDigit_high : peek (fun t => (t.hbuf, t.hnib, t.hph, t.acc)) (exec (.hexDigit 0x35) (inHex [0x30, 0x31] 0x01)) =
    some ([0x30, 0x31, 0x35], 0x5, true, 0x01) := by decide

/-- R177 and R172: the low digit completes a byte, `54` after `01`. -/
theorem test_hexDigit_low :
    peek (fun t => (t.hnib, t.hph, t.acc))
      (exec (.hexDigit 0x34) { inHex [0x30, 0x31, 0x35] 0x01 with hnib := 0x5, hph := true }) =
      some (0x0, false, 0x55) := by decide

/-- R178. -/
theorem test_hexJunk : peek (fun t => (t.hbad, t.hbuf, t.st)) (exec (.hexJunk 0x20) (inHex [0x30] 0x00)) =
    some (true, [0x30], .readingHex) := by decide

/-- R179. -/
theorem test_hexSkip :
    peek (fun t => (t.hbad, t.hbuf, t.acc)) (exec (.hexSkip 0x31) { inHex [0x30, 0x31] 0x01 with hbad := true }) =
      some (true, [0x30, 0x31], 0x01) := by decide

/-! ### The step -/

/-- The first byte of V1, offered at an edge after reset. -/
theorem test_step_first_byte :
    peek (fun t => (t.st, t.acc, t.lbuf, t.input)) (step (offered 0x50 State.reset)) =
      some (.readingLabel, 0x50, [0x50], []) := by decide

/-- A placed table word runs in the very next step: LBL.TAB. -/
theorem test_step_placed_word : peek (fun t => (t.st, t.acc)) (step (State.reset.withFetchWord 16 0x109)) =
    some (.readingValue, 0x09) := by decide

/-! ### Witnesses: for each statement with hypotheses, states and operands that meet all of them together -/

/-- A configuration R9 refuses. -/
def refusedCfg : Cfg := { Cfg.ref with maxLabel := .atMost 7 }

/-- A state that breaks R33: a label byte held in IDLE. -/
def brokenState : State := { State.reset with lbuf := [0x41] }

theorem witness_DecodeOfEncodeGivesInstruction :
    Cfg.ref.Admitted ∧ (⟨true, true, 1, false⟩ : Guard).Reachable (Instr.ckNolf 0x0D).st ∧
    (Instr.ckNolf 0x0D).guardHolds ⟨true, true, 1, false⟩ = true ∧ (Instr.ckNolf 0x0D).wellFormed Cfg.ref = true := by decide

theorem witness_EncodeOfDecodeGivesWord : decode Cfg.ref {} 0x3FF = .ok (.hexJunk 0xFF) := by rfl

theorem witness_DecodeAnswersExactlyOperationWords :
    (Cfg.ref.Admitted ∧ 1023 < 1024) ∧ (Cfg.ref.Admitted ∧ 1024 ≤ 1024) ∧ ¬ refusedCfg.Admitted := by decide

theorem witness_ExactlyOneRowApplies :
    Cfg.ref.Admitted ∧ (⟨false, true, 1, false⟩ : Guard).Reachable .readingValue ∧
    (Instr.ckBad 0x0A).rowApplies Cfg.ref .readingValue ⟨false, true, 1, false⟩ = true := by decide

theorem witness_PlacedTableWordIsRunByTheNextStep : decodeTableWord 16 0x33A = some .hexMark := by decide

theorem witness_HexDigitsAndTheirValues :
    ((0x30 : Byte) ≤ 0x39 ∧ (0x39 : Byte) ≤ 0x39) ∧ ((0x41 : Byte) ≤ 0x41 ∧ (0x41 : Byte) ≤ 0x46) ∧
    ((0x61 : Byte) ≤ 0x66 ∧ (0x66 : Byte) ≤ 0x66) := by decide

/-- An edge with reset that offers a byte and shows another configuration, in a state that breaks R33. -/
theorem witness_ResetEdgeResetsFromAnyState :
    let e : Edge := { rst := true, offers := [0x41], cfg := some tiny }
    let s : State := { brokenState with input := [e] }
    s.input = e :: [] ∧ e.rst = true ∧ e.offers.length ≤ 1 ∧ (e.cfg.getD s.cfg).Admitted := by decide

theorem witness_EdgeWithoutByteChangesNothing :
    let s : State := { inLabel [0x56] 0x56 with input := [{}] }
    s.input = {} :: [] ∧ (Edge.rst {}) = false ∧ (Edge.offers {}) = [] ∧ (Edge.cfg {}).getD s.cfg = s.cfg ∧
    s.cfg.Admitted ∧ s.Legal := by decide

theorem witness_EmptyInputChangesNothing :
    let s : State := inHex [0x30] 0x00
    s.input = [] ∧ s.cfg.Admitted ∧ s.Legal := by decide

theorem witness_StepRunsTheDecodedInstruction :
    let e : Edge := { offers := [0x09] }
    let s : State := { inLabel [0x56] 0x56 with input := [e] }
    s.input = e :: [] ∧ e.rst = false ∧ e.offers = [0x09] ∧ e.cfg.getD s.cfg = s.cfg ∧ s.cfg.Admitted ∧ s.Legal ∧
    decode s.cfg s.guard (opWord s.st 0x09).toNat = .ok .lblTab :=
  ⟨rfl, rfl, rfl, rfl, by decide, by decide, rfl⟩

/-- The clauses of the refusals of an edge, each met. -/
theorem witness_EdgesOutsideTheContractAreRefused :
    2 ≤ (Edge.offers { offers := [0x41, 0x42] }).length ∧
    ((Edge.offers { rst := true, cfg := some refusedCfg }).length ≤ 1 ∧
      ¬ ((Edge.cfg { rst := true, cfg := some refusedCfg }).getD Cfg.ref).Admitted) ∧
    ((Edge.offers { cfg := some tiny, offers := [0x41] }).length ≤ 1 ∧
      (Edge.cfg { cfg := some tiny }).getD Cfg.ref ≠ Cfg.ref) ∧
    ((Edge.cfg { offers := [0x41] }).getD refusedCfg = refusedCfg ∧ ¬ refusedCfg.Admitted) ∧
    (brokenState.cfg.Admitted ∧ ¬ brokenState.Legal) := by decide

/-- The clauses of the refusals of an edge, each with its outcome. -/
theorem test_edges_refused :
    refusalOf (step { State.reset with input := [{ rst := true, offers := [0x41, 0x42] }] }) = some .twoBytesInOneStep ∧
    refusalOf (step { State.reset with input := [{ rst := true, cfg := some refusedCfg }] }) = some .configRefused ∧
    refusalOf (step { State.reset with input := [{ cfg := some tiny, offers := [0x41] }] }) = some .configChanged ∧
    refusalOf (step { State.reset with cfg := refusedCfg, input := [{ offers := [0x41] }] }) = some .configRefused ∧
    refusalOf (step { brokenState with input := [{ offers := [0x41] }] }) = some .invariantBroken := by decide

theorem witness_EveryByteCompletesInEveryLegalState :
    let e : Edge := { offers := [0xFF] }
    let s : State := { inValue CK_LABEL [0xDC] 0x00 true with input := [e] }
    s.input = e :: [] ∧ e.rst = false ∧ e.offers = [0xFF] ∧ e.cfg.getD s.cfg = s.cfg ∧ s.cfg.Admitted ∧ s.Legal := by decide

/-- A frame in progress, the worst of streams still to come. -/
theorem witness_NoByteStreamStopsTheCore : (inHex [0x35] 0x00).cfg.Admitted ∧ (inHex [0x35] 0x00).Legal := by decide

/-- An edge that answers a next state and one that is refused, each with another edge behind it. -/
theorem witness_StepReadsOnlyTheNextEdge :
    peek (fun t => (t.st, t.input)) (step { State.reset with input := [{ offers := [0x3A] }, { rst := true }] }) =
      some (.readingHex, [{ rst := true }]) ∧
    refusalOf (step { State.reset with input := [{ offers := [0x3A, 0x3A] }, { rst := true }] }) = some .twoBytesInOneStep := by
  decide

theorem witness_InstructionCompletesExactlyWhenReady :
    Ready .lblTab (inLabel [0x56] 0x56) ∧ ¬ { State.reset with cfg := refusedCfg : State }.cfg.Admitted ∧
    (brokenState.cfg.Admitted ∧ ¬ brokenState.Legal) ∧
    (State.reset.cfg.Admitted ∧ State.reset.Legal ∧
      Instr.lblTab.rowApplies State.reset.cfg State.reset.st State.reset.guard = false) :=
  ⟨by decide, by decide, by decide, by decide⟩

theorem witness_StepAnswersOnlyLegalStates :
    (peek (fun t => t.st) (step (offered 0x3A State.reset))) = some .readingHex := by decide

/-- The state whose next byte is the first of V1. -/
theorem witness_SafeStatesStepToSafeStates : (offered 0x50 State.reset).Safe :=
  ⟨by decide, by decide, ⟨by decide, by decide, by decide⟩, trivial⟩

theorem witness_StepKeepsOutputsInAgreement :
    (offered 0x3A State.reset).OutputsAgree ∧
    peek (fun t => t.outValid) (step (offered 0x3A State.reset)) = some false :=
  ⟨⟨by decide, by decide, by decide, by decide⟩, by decide⟩

/-- `0` `1` `5` read, `4` next: the account holds with a digit unpaired. -/
theorem witness_StepKeepsHexPayloadAccounted :
    let s : State := { offered 0x34 (inHex [0x30, 0x31, 0x35] 0x01) with hnib := 0x5, hph := true }
    s.HexAccounted ∧ peek (fun t => t.acc) (step s) = some 0x55 :=
  ⟨fun _ _ => ⟨by decide, by decide, fun d h => by cases h; decide⟩, by decide⟩

theorem witness_StepKeepsChecksumOutOfRecord :
    (offered 0x0A (inValue [0x56] [0x31] 0x72 true)).NoChecksumInRecord ∧
    peek (fun t => t.record) (step (offered 0x0A (inValue [0x56] [0x31] 0x72 true))) = some [⟨[0x56], [0x31]⟩] :=
  ⟨by simp [State.NoChecksumInRecord, offered, inValue, State.reset, State.resetWith, labels], by decide⟩

theorem witness_IdleMarkBeginsHexFrame : Ready .idleMark State.reset := by decide

theorem witness_IdlePrintStartsRecord : Ready (.idlePrint 0x20) State.reset ∧ Ready (.idlePrint 0x7E) State.reset := by decide

theorem witness_SkippedBytesChangeNothing :
    Ready (.idleSkip 0x1F) State.reset ∧ Ready (.hexSkip 0x0D) { inHex [] 0x00 with hbad := true } := by decide

theorem witness_LblTabStartsValue : Ready .lblTab (inLabel [] 0x00) := by decide

/-- At 15 bytes there is room, at 16 there is none, and with no capacity there always is. -/
theorem witness_LblDataAppendsOrOverflows :
    (Ready (.lblData 0x3A) (inLabel (List.replicate 15 0x41) 0x00) ∧ hasRoom Cfg.ref.maxLabel 15 = true) ∧
    (Ready (.lblData 0x3A) (inLabel (List.replicate 16 0x41) 0x00) ∧ hasRoom Cfg.ref.maxLabel 16 = false) ∧
    (Ready (.lblData 0x3A) { inLabel (List.replicate 17 0x41) 0x00 with cfg := vast } ∧ hasRoom vast.maxLabel 17 = true) :=
  ⟨⟨by decide, by decide⟩, ⟨by decide, by decide⟩, ⟨by decide, by decide⟩⟩

theorem witness_BadBytesDiscardTheRecord :
    Ready (.lblTerm 0x0D) (inLabel [0x56] 0x56) ∧ Ready (.valBad 0x0A) (inValue [0x56] [] 0x00 false) ∧
    Ready (.valNolf 0x0D) (inValue [0x56] [] 0x00 true) ∧ Ready (.ckBad 0x0A) (inValue CK_LABEL [0xDC] 0x00 false) ∧
    Ready (.ckNolf 0x0D) (inValue CK_LABEL [0xDC] 0x00 true) :=
  ⟨by decide, by decide, by decide, by decide, by decide⟩

/-- At 32 bytes there is room, at 33 there is none. -/
theorem witness_ValDataAppendsOrOverflows :
    (Ready (.valData 0x3A) (inValue [] (List.replicate 32 0x41) 0x00 false) ∧ hasRoom Cfg.ref.maxValue 32 = true) ∧
    (Ready (.valData 0x3A) (inValue [] (List.replicate 33 0x41) 0x00 false) ∧ hasRoom Cfg.ref.maxValue 33 = false) :=
  ⟨⟨by decide, by decide⟩, ⟨by decide, by decide⟩⟩

theorem witness_ValCrMarksTerminator : Ready .valCr (inValue [0x56] [] 0x00 false) := by decide

/-- A record of one field, full under `tiny`, takes the same label again and overflows on another. -/
theorem witness_ValLfFlushesFieldOrOverflows :
    (Ready .valLf { inValue [0x56] [0x32] 0x00 true with cfg := tiny, record := [⟨[0x56], [0x31]⟩] } ∧
      insertField tiny.maxFields [⟨[0x56], [0x31]⟩] [0x56] [0x32] = some [⟨[0x56], [0x32]⟩]) ∧
    (Ready .valLf { inValue [0x49] [0x32] 0x00 true with cfg := tiny, record := [⟨[0x56], [0x31]⟩] } ∧
      insertField tiny.maxFields [⟨[0x56], [0x31]⟩] [0x49] [0x32] = none) :=
  ⟨⟨by decide, by decide⟩, ⟨by decide, by decide⟩⟩

theorem witness_CkByteTakesAnyByte :
    Ready (.ckByte 0x0A) (inValue CK_LABEL [] 0x00 false) ∧ Ready (.ckByte 0xFF) (inValue CK_LABEL [] 0x00 false) := by decide

theorem witness_CkCrLeavesTheSum : Ready .ckCr (inValue CK_LABEL [0x0D] 0x31 false) := by decide

/-- Overflow, a sum of 0, and a sum of 1. -/
theorem witness_CkLfEmitsOrDiscards :
    (Ready .ckLf { inValue CK_LABEL [0x00] 0x00 true with cfg := tiny, record := [⟨[0x56], [0x31]⟩] } ∧
      insertField tiny.maxFields [⟨[0x56], [0x31]⟩] CK_LABEL [0x00] = none) ∧
    (Ready .ckLf (inValue CK_LABEL [0x00] 0x00 true) ∧
      insertField Cfg.ref.maxFields [] CK_LABEL [0x00] = some [⟨CK_LABEL, [0x00]⟩]) ∧
    (Ready .ckLf (inValue CK_LABEL [0x00] 0x01 true) ∧ (0x01 : Byte) ≠ 0x00) :=
  ⟨⟨by decide, by decide⟩, ⟨by decide, by decide⟩, ⟨by decide, by decide⟩⟩

/-- A valid frame; and one each that is bad, has a digit unpaired, is empty, or misses the target. -/
theorem witness_HexTermEmitsOrDiscards :
    (Ready .hexTerm (inHex [0x35, 0x35] 0x55) ∧ (inHex [0x35, 0x35] 0x55).hexValid) ∧
    (Ready .hexTerm { inHex [0x35, 0x35] 0x55 with hbad := true } ∧ ¬ { inHex [0x35, 0x35] 0x55 with hbad := true : State }.hexValid) ∧
    (Ready .hexTerm { inHex [0x35] 0x55 with hph := true } ∧ ¬ { inHex [0x35] 0x55 with hph := true : State }.hexValid) ∧
    (Ready .hexTerm (inHex [] 0x55) ∧ ¬ (inHex [] 0x55).hexValid) ∧
    (Ready .hexTerm (inHex [0x35, 0x34] 0x54) ∧ ¬ (inHex [0x35, 0x34] 0x54).hexValid) :=
  ⟨⟨by decide, by decide⟩, ⟨by decide, by decide⟩, ⟨by decide, by decide⟩, ⟨by decide, by decide⟩, ⟨by decide, by decide⟩⟩

theorem witness_HexMarkRestartsFrame : Ready .hexMark { inHex [0x35] 0x00 with hbad := true } := by decide

/-- A lone leading digit, the high digit and the low digit of a pair, the last digit that fits, and one too many. -/
theorem witness_HexDigitAssemblesBytes :
    (Ready (.hexDigit 0x37) { inHex [] 0x00 with cfg := nibbled }) ∧ (Ready (.hexDigit 0x46) (inHex [] 0x00)) ∧
    (Ready (.hexDigit 0x66) { inHex [0x35] 0x00 with cfg := tiny, hph := true, hnib := 0x5 } ∧ hasRoom tiny.maxHex 1 = true) ∧
    (Ready (.hexDigit 0x30) { inHex [0x35, 0x35] 0x55 with cfg := tiny } ∧ hasRoom tiny.maxHex 2 = false) :=
  ⟨by decide, by decide, ⟨by decide, by decide⟩, ⟨by decide, by decide⟩⟩

theorem witness_HexJunkMarksFrameBad : Ready (.hexJunk 0x09) (inHex [0x35] 0x00) := by decide

/-- The clauses of `insert`: the label is there, it is not and fits, it is not and does not fit. -/
theorem witness_InsertOverwritesAppendsOrOverflows :
    (labels [⟨[0x56], [0x31]⟩]).Nodup ∧ [0x56] ∈ labels [⟨[0x56], [0x31]⟩] ∧
    ([0x49] ∉ labels [⟨[0x56], [0x31]⟩] ∧ hasRoom (.atMost 2) 1 = true) ∧
    ([0x49] ∉ labels [⟨[0x56], [0x31]⟩] ∧ hasRoom (.atMost 1) 1 = false) := by decide

theorem witness_ChecksumArithmetic :
    List.Perm ([0x01, 0x02] : ByteSeq) [0x02, 0x01] ∧ (0x00 : Byte) ≠ 0xFF := by decide

/-- The CR of the Checksum field leaves the sum, the CR of another field enters it; neither step ends in IDLE. -/
theorem witness_WindowBytesAreSummed :
    peek (fun t => (t.st, t.acc)) (exec .ckCr (inValue CK_LABEL [0xDC] 0x00 false)) = some (.readingValue, 0x00) ∧
    peek (fun t => (t.st, t.acc)) (exec .valCr (inValue [0x56] [0x31] 0x00 false)) = some (.readingValue, 0x0D) := by decide

theorem witness_OnlyCkLfAndHexTermEmit :
    peek (fun t => t.outValid) (exec .ckLf (inValue CK_LABEL [0x00] 0x00 true)) = some true ∧
    peek (fun t => t.outValid) (exec .hexTerm (inHex [0x35, 0x35] 0x55)) = some true := by decide

theorem witness_EmittedRecordSumsToZero :
    (inValue CK_LABEL [0x00] 0x00 true).NoChecksumInRecord ∧
    peek (fun t => t.outUnit) (exec .ckLf (inValue CK_LABEL [0x00] 0x00 true)) = some (some (.record [⟨CK_LABEL, [0x00]⟩])) :=
  ⟨by simp [State.NoChecksumInRecord, inValue, State.reset, State.resetWith, labels], by decide⟩

theorem witness_EmittedHexFrameIsValid :
    (inHex [0x35, 0x35] 0x55).HexAccounted ∧
    peek (fun t => t.outUnit) (exec .hexTerm (inHex [0x35, 0x35] 0x55)) = some (some (.hexFrame [0x35, 0x35])) :=
  ⟨fun _ _ => ⟨by decide, by decide, fun d h => by cases h⟩, by decide⟩

theorem witness_OnlyTheTerminatorLeavesReadingHex :
    peek (fun t => t.st) (exec .hexTerm (inHex [] 0x00)) = some .idle ∧
    peek (fun t => t.st) (exec (.hexJunk 0x20) (inHex [] 0x00)) = some .readingHex := by decide

theorem witness_AfterDiscardOrEmitTheCoreIsReset :
    peek (fun t => t.dbgDrop) (exec (.lblTerm 0x0D) (inLabel [0x56] 0x56)) = some true ∧ Instr.lblTerm 0x0D ≠ .hexMark ∧
    peek (fun t => t.outValid) (exec .ckLf (inValue CK_LABEL [0x00] 0x00 true)) = some true := by decide

/-- A value phase that lasts, in the Checksum field and outside it. -/
theorem witness_ValuePhaseKeepsItsRules :
    peek (fun t => (t.st, t.isCk)) (exec (.ckByte 0xDC) (inValue CK_LABEL [] 0x24 false)) = some (.readingValue, true) ∧
    peek (fun t => (t.st, t.isCk)) (exec (.valData 0x30) (inValue [0x56] [] 0x24 false)) = some (.readingValue, false) := by
  decide

theorem witness_UnboundedBuffersNeverOverflow :
    peek (fun t => t.dbgCause) (exec (.lblData 0x41) { inLabel (List.replicate 17 0x41) 0x00 with cfg := vast }) = some 0x0 ∧
    peek (fun t => t.hbad) (exec (.hexDigit 0x35) { inHex (List.replicate 66 0x35) 0x00 with cfg := vast }) = some false ∧
    vast.maxLabel = .unbounded ∧ vast.maxValue = .unbounded ∧ vast.maxFields = .unbounded ∧ vast.maxHex = .unbounded := by
  decide

theorem witness_InstructionsLeaveTheInputsAlone :
    peek (fun t => (t.cfg, t.input.length)) (exec .hexMark { inHex [] 0x00 with input := [{}, {}] }) = some (Cfg.ref, 2) := by
  decide

theorem witness_NoHexFrameBeginsInsideARecord :
    peek (fun t => t.st) (exec (.lblData 0x3A) (inLabel [0x56] 0x56)) = some .readingLabel ∧
    peek (fun t => t.st) (exec (.valData 0x3A) (inValue [0x56] [] 0x56 false)) = some .readingValue := by decide

theorem witness_RunsCompose : run State.reset [0x0A] = .next (State.reset, []) := by rfl

/-- The endless stream `:55\n:55\n...`. -/
def endlessFrames : InputStream :=
  .infinite fun n => match n % 4 with
    | 0 => 0x3A
    | 1 | 2 => 0x35
    | _ => 0x0A

/-- An endless stream and a finite one, each with a unit at a place of its output; the endless one has a unit at the next
place too, and the prefixes of 4 and 8 bytes complete. -/
theorem witness_OutputIsTheLimitOfFinitePrefixes :
    State.reset.cfg.Admitted ∧ State.reset.Legal ∧
    outputAt State.reset endlessFrames 0 (.hexFrame [0x35, 0x35]) ∧
    outputAt State.reset endlessFrames 1 (.hexFrame [0x35, 0x35]) ∧
    outputAt State.reset (.finite [0x3A, 0x35, 0x35, 0x0A]) 0 (.hexFrame [0x35, 0x35]) :=
  ⟨by decide, by decide, ⟨4, _, _, rfl, rfl⟩, ⟨8, _, _, rfl, rfl⟩, ⟨4, _, _, rfl, rfl⟩⟩

theorem witness_SkippedNoiseEmitsNothing :
    State.reset.cfg.Admitted ∧ State.reset.Legal ∧ State.reset.st = .idle ∧
    ([0x00, 0x0A, 0x7F, 0xFF] : List Byte).all (fun b => icls State.reset.cfg b == .skip) = true := by decide

/-- The fields of V1; its checksum byte makes the sum 0, another one does not. -/
theorem witness_TextRecordIsEmittedExactlyWhenItsSumIsZero :
    let fs : List Field := [⟨[0x50, 0x49, 0x44], [0x30, 0x78, 0x41, 0x30, 0x36, 0x30]⟩, ⟨[0x56], [0x31, 0x33, 0x36, 0x35, 0x30]⟩,
      ⟨[0x49], [0x2D, 0x31, 0x30]⟩]
    State.reset.cfg.Admitted ∧ State.reset.Legal ∧ State.reset.st = .idle ∧ fieldsFit State.reset.cfg fs = true ∧
    State.reset.cfg.checksumSeed + byteSum (recordPreamble fs) + 0xDC = 0x00 ∧
    State.reset.cfg.checksumSeed + byteSum (recordPreamble fs) + 0xDD ≠ 0x00 := by decide

/-- V2, item 1: the last digit of `V` becomes `1`. -/
theorem witness_OneCorruptedValueByteEmitsNothing :
    State.reset.cfg.Admitted ∧ State.reset.Legal ∧ State.reset.st = .idle ∧ isData 0x31 = true ∧ (0x30 : Byte) ≠ 0x31 ∧
    fieldsFit State.reset.cfg ([] ++ ⟨[0x56], [0x31, 0x33, 0x36, 0x35] ++ 0x30 :: []⟩ :: [⟨[0x49], [0x2D]⟩]) = true := by decide

/-- V4's frame, and the longest that fits in 64 digits. -/
theorem witness_ValidHexFrameIsEmitted :
    State.reset.cfg.Admitted ∧ State.reset.Legal ∧ State.reset.st = .idle ∧ State.reset.cfg.hexLeadingNibble = false ∧
    within State.reset.cfg.maxHex (2 * (([0x01] : ByteSeq).length + 1)) = true ∧
    within State.reset.cfg.maxHex (2 * ((List.replicate 31 (0x01 : Byte)).length + 1)) = true ∧
    hexFrameBytes State.reset.cfg [0x01] = [0x3A, 0x30, 0x31, 0x35, 0x34, 0x0A] := by decide

end Sys2Proof.Tests
end

section
/-! PROOFS for 00_scope.md: where an instruction completes and where it is refused (R9), and that an UNBOUNDED capacity
never overflows (R7). The laws of the single effects come first. -/

namespace Sys2Proof.Machine

/-! ### The three refusals of an instruction -/

/-- R9, R81: under a configuration that is not admitted no instruction has a meaning. -/
theorem exec_configRefused {s : State} (hc : ¬ s.cfg.Admitted) (i : Instr) : exec i s = .refused .configRefused := by
  rw [exec_eq_transition, transition, if_neg hc]

/-- R33: in a state that is not legal no instruction has a meaning. -/
theorem exec_invariantBroken {s : State} (hc : s.cfg.Admitted) (hl : ¬ s.Legal) (i : Instr) :
    exec i s = .refused .invariantBroken := by
  rw [exec_eq_transition, transition, if_pos hc, if_neg hl]

/-- R79: where its row does not apply an instruction has no meaning. -/
theorem exec_rowNotSelected {i : Instr} {s : State} (hc : s.cfg.Admitted) (hl : s.Legal)
    (hr : i.rowApplies s.cfg s.st s.guard = false) : exec i s = .refused .rowNotSelected := by
  rw [exec_eq_transition, transition, if_pos hc, if_pos hl, if_neg (by simp [hr])]

/-- Settles O19: `exec_next` and the three refusals. -/
theorem instructionCompletesExactlyWhenReady : Obligations.InstructionCompletesExactlyWhenReady := by
  intro i s
  exact ⟨fun h => ⟨_, exec_next h⟩, fun hc => exec_configRefused hc i, fun hc hl => exec_invariantBroken hc hl i,
    exec_rowNotSelected⟩

/-! ### What the effects with a test can do -/

/-- All that LBL.DATA can do (R122). -/
theorem appendLabel_cases (b : Byte) (s : State) :
    (hasRoom s.cfg.maxLabel s.lbuf.length = true ∧
      appendLabel b s = { s with lbuf := s.lbuf ++ [b], acc := accAdd s.acc b }) ∨
    (hasRoom s.cfg.maxLabel s.lbuf.length = false ∧ appendLabel b s = discard .labelOverflow s) := by
  rw [appendLabel]
  cases hasRoom s.cfg.maxLabel s.lbuf.length with
  | true => exact .inl ⟨rfl, rfl⟩
  | false => exact .inr ⟨rfl, rfl⟩

/-- All that VAL.DATA can do (R143). -/
theorem appendValue_cases (b : Byte) (s : State) :
    (hasRoom s.cfg.maxValue s.vbuf.length = true ∧
      appendValue b s = { s with vbuf := s.vbuf ++ [b], acc := accAdd s.acc b }) ∨
    (hasRoom s.cfg.maxValue s.vbuf.length = false ∧ appendValue b s = discard .valueOverflow s) := by
  rw [appendValue]
  cases hasRoom s.cfg.maxValue s.vbuf.length with
  | true => exact .inl ⟨rfl, rfl⟩
  | false => exact .inr ⟨rfl, rfl⟩

/-- An insertion overflows only where the record has no room (R141). -/
theorem hasRoom_of_insertField_none {cap : Capacity} {r : Record} {l v : ByteSeq} (h : insertField cap r l v = none) :
    hasRoom cap r.length = false := by
  obtain ⟨-, e⟩ | ⟨-, -, e⟩ | ⟨-, hroom, -⟩ := insertField_cases cap r l v
  · rw [e] at h; cases h
  · rw [e] at h; cases h
  · exact hroom

/-- All that VAL.LF can do (R146). -/
theorem flushField_cases (s : State) :
    (∃ r, insertField s.cfg.maxFields s.record s.lbuf s.vbuf = some r ∧
      flushField s = { s with
        record := r, acc := accAdd s.acc LF, lbuf := [], vbuf := [], crs := false, st := .readingLabel }) ∨
    (insertField s.cfg.maxFields s.record s.lbuf s.vbuf = none ∧ flushField s = discard .recordOverflow s) := by
  rw [flushField]
  cases insertField s.cfg.maxFields s.record s.lbuf s.vbuf with
  | some r => exact .inl ⟨r, rfl, rfl⟩
  | none => exact .inr ⟨rfl, rfl⟩

/-- All that CK.LF can do (R152, R243). -/
theorem finishRecord_cases (s : State) :
    (insertField s.cfg.maxFields s.record s.lbuf s.vbuf = none ∧ finishRecord s = discard .recordOverflow s) ∨
    ∃ r, insertField s.cfg.maxFields s.record s.lbuf s.vbuf = some r ∧
      ((s.accValid = true ∧ finishRecord s = complete (.record r) s) ∨
       (s.accValid = false ∧ finishRecord s = discard .checksumMismatch s)) := by
  rw [finishRecord]
  cases insertField s.cfg.maxFields s.record s.lbuf s.vbuf with
  | none => exact .inl ⟨rfl, rfl⟩
  | some r =>
    cases s.accValid with
    | true => exact .inr ⟨r, rfl, .inl ⟨rfl, rfl⟩⟩
    | false => exact .inr ⟨r, rfl, .inr ⟨rfl, rfl⟩⟩

/-- All that HEX.TERM can do (R174). -/
theorem finishHexFrame_cases (s : State) :
    (s.hexValid ∧ finishHexFrame s = complete (.hexFrame s.hbuf) s) ∨
    (¬ s.hexValid ∧ finishHexFrame s = discard .hexInvalid s) := by
  rw [finishHexFrame]
  by_cases h : s.hexValid
  · exact .inl ⟨h, if_pos h⟩
  · exact .inr ⟨h, if_neg h⟩

/-- A digit leaves the diagnostic port as it finds it (R177). -/
@[simp] theorem takeDigit_dbgCause (b : Byte) (s : State) : (takeDigit b s).dbgCause = s.dbgCause := by
  unfold takeDigit
  dsimp only
  repeat' split
  all_goals rfl

/-- A digit that finds room does not mark the frame bad (R177). -/
theorem takeDigit_hbad_of_hasRoom (b : Byte) {s : State} (h : hasRoom s.cfg.maxHex s.hbuf.length = true) :
    (takeDigit b s).hbad = s.hbad := by
  unfold takeDigit
  rw [if_pos h]
  repeat' split
  all_goals rfl

/-! ### The cause an instruction reports -/

/-- The codes of R242 are distinct. -/
theorem causeCode_injective : Function.Injective causeCode := by
  intro c d
  cases c <;> cases d <;> decide

/-- What must hold of a state for an overflow cause to be reported from it: the buffer has no room (R122, R143, R141). -/
def Cause.bufferFull (s : State) : Cause → Prop
  | .labelOverflow => hasRoom s.cfg.maxLabel s.lbuf.length = false
  | .valueOverflow => hasRoom s.cfg.maxValue s.vbuf.length = false
  | .recordOverflow => hasRoom s.cfg.maxFields s.record.length = false
  | _ => True

/-- Every effect leaves the diagnostic port's cause alone or reports a cause; an overflow only of a full buffer. -/
theorem effectOf_dbgCause (i : Instr) (s : State) :
    (effectOf i s).dbgCause = s.dbgCause ∨ ∃ c, (effectOf i s).dbgCause = causeCode c ∧ c.bufferFull s := by
  cases i with
  | idleMark | idlePrint | idleSkip | lblTab | valCr | ckByte | ckCr | hexJunk | hexSkip => exact .inl rfl
  | lblTerm => exact .inr ⟨.termInLabel, rfl, trivial⟩
  | valBad => exact .inr ⟨.badInValue, rfl, trivial⟩
  | valNolf | ckNolf => exact .inr ⟨.crWithoutLf, rfl, trivial⟩
  | ckBad => exact .inr ⟨.ckValueTooLong, rfl, trivial⟩
  | hexMark => exact .inr ⟨.hexRestart, rfl, trivial⟩
  | hexDigit b => exact .inl (takeDigit_dbgCause b s)
  | lblData b =>
    rw [effectOf]
    obtain ⟨-, e⟩ | ⟨hfull, e⟩ := appendLabel_cases b s <;> rw [e]
    · exact .inl rfl
    · exact .inr ⟨.labelOverflow, rfl, hfull⟩
  | valData b =>
    rw [effectOf]
    obtain ⟨-, e⟩ | ⟨hfull, e⟩ := appendValue_cases b s <;> rw [e]
    · exact .inl rfl
    · exact .inr ⟨.valueOverflow, rfl, hfull⟩
  | valLf =>
    rw [effectOf]
    obtain ⟨r, -, e⟩ | ⟨hnone, e⟩ := flushField_cases s <;> rw [e]
    · exact .inl rfl
    · exact .inr ⟨.recordOverflow, rfl, hasRoom_of_insertField_none hnone⟩
  | ckLf =>
    rw [effectOf]
    obtain ⟨hnone, e⟩ | ⟨r, -, ⟨-, e⟩ | ⟨-, e⟩⟩ := finishRecord_cases s <;> rw [e]
    · exact .inr ⟨.recordOverflow, rfl, hasRoom_of_insertField_none hnone⟩
    · exact .inl rfl
    · exact .inr ⟨.checksumMismatch, rfl, trivial⟩
  | hexTerm =>
    rw [effectOf]
    obtain ⟨-, e⟩ | ⟨-, e⟩ := finishHexFrame_cases s <;> rw [e]
    · exact .inl rfl
    · exact .inr ⟨.hexInvalid, rfl, trivial⟩

/-- An instruction reports a cause only where that cause's buffer is full. -/
theorem bufferFull_of_exec_cause {i : Instr} {s t : State} (h : exec i s = .next t) {c : Cause}
    (hc : t.dbgCause = causeCode c) : c.bufferFull s := by
  obtain ⟨-, rfl⟩ := ready_of_exec_next h
  obtain hrest | ⟨d, hd, hfull⟩ := effectOf_dbgCause i (startStep s)
  · rw [hc, startStep_dbgCause] at hrest
    cases c <;> cases hrest
  · obtain rfl : c = d := causeCode_injective (hc.symm.trans hd)
    exact hfull

/-- A digit that finds room leaves the frame good: HEX.DIGIT runs only while it is (R79, R177). -/
theorem exec_hexDigit_hbad {b : Byte} {s t : State} (h : exec (.hexDigit b) s = .next t)
    (hroom : hasRoom s.cfg.maxHex s.hbuf.length = true) : t.hbad = false := by
  obtain ⟨⟨-, -, hrow⟩, rfl⟩ := ready_of_exec_next h
  obtain ⟨-, hguard, -⟩ := rowApplies_iff.mp hrow
  have hgood : s.hbad = false := by simpa [Instr.guardHolds] using hguard
  exact (takeDigit_hbad_of_hasRoom b (s := startStep s) hroom).trans hgood

/-- Settles O52: an overflow needs a full buffer, and an UNBOUNDED one always has room. -/
theorem unboundedBuffersNeverOverflow : Obligations.UnboundedBuffersNeverOverflow := by
  intro i s t h
  refine ⟨fun hcap hc => ?_, fun hcap hc => ?_, fun hcap hc => ?_, fun hcap hdigit => ?_⟩
  · have hfull := bufferFull_of_exec_cause (c := .labelOverflow) h hc
    simp [Cause.bufferFull, hcap] at hfull
  · have hfull := bufferFull_of_exec_cause (c := .valueOverflow) h hc
    simp [Cause.bufferFull, hcap] at hfull
  · have hfull := bufferFull_of_exec_cause (c := .recordOverflow) h hc
    simp [Cause.bufferFull, hcap] at hfull
  · obtain ⟨b, rfl⟩ := hdigit
    exact exec_hexDigit_hbad h (by rw [hcap, hasRoom_unbounded])

end Sys2Proof.Machine
end

section
/-! PROOFS for 10_state.md: every step answers a legal state under an admitted configuration (R33, R9), and keeps the output
register and the diagnostic port in agreement (R30, R31). Each has one lemma about the effects; `step_next_cases` carries it
to the step. -/

namespace Sys2Proof.Machine

/-! ### What a digit can do -/

/-- All that HEX.DIGIT can do (R177). -/
theorem takeDigit_cases (b : Byte) (s : State) :
    (hasRoom s.cfg.maxHex s.hbuf.length = false ∧ takeDigit b s = { s with hbad := true }) ∨
    (hasRoom s.cfg.maxHex s.hbuf.length = true ∧
      (((s.cfg.hexLeadingNibble = true ∧ s.hbuf.length = 0) ∧
        takeDigit b s = { s with hbuf := s.hbuf ++ [b], acc := accAdd s.acc (zext8 (hexval b)) }) ∨
       (¬ (s.cfg.hexLeadingNibble = true ∧ s.hbuf.length = 0) ∧ s.hph = false ∧
        takeDigit b s = { s with hbuf := s.hbuf ++ [b], hnib := hexval b, hph := true }) ∨
       (¬ (s.cfg.hexLeadingNibble = true ∧ s.hbuf.length = 0) ∧ s.hph = true ∧
        takeDigit b s = { s with
          hbuf := s.hbuf ++ [b], acc := accAdd s.acc (pairByte s.hnib (hexval b)), hnib := 0x0, hph := false }))) := by
  cases hroom : hasRoom s.cfg.maxHex s.hbuf.length with
  | false => exact .inl ⟨rfl, by simp [takeDigit, hroom]⟩
  | true =>
    refine .inr ⟨rfl, ?_⟩
    rw [takeDigit, if_pos hroom]
    by_cases hlone : s.cfg.hexLeadingNibble = true ∧ s.hbuf.length = 0
    · exact .inl ⟨hlone, if_pos hlone⟩
    · rw [if_neg hlone]
      cases hph : s.hph with
      | false => exact .inr (.inl ⟨hlone, rfl, if_pos rfl⟩)
      | true => exact .inr (.inr ⟨hlone, rfl, if_neg (by simp)⟩)

/-! ### Legality of each effect -/

theorem legal_of_labelShape {s : State} (hst : s.st = .readingLabel) (hshape : s.LabelShape) (hcap : s.WithinCapacity)
    (hvals : s.LegalValues) : s.Legal :=
  ⟨(shapeHolds_label hst).mpr hshape, hcap, hvals⟩

theorem legal_of_valueShape {s : State} (hst : s.st = .readingValue) (hshape : s.ValueShape) (hcap : s.WithinCapacity)
    (hvals : s.LegalValues) : s.Legal :=
  ⟨(shapeHolds_value hst).mpr hshape, hcap, hvals⟩

theorem legal_of_hexShape {s : State} (hst : s.st = .readingHex) (hshape : s.HexShape) (hcap : s.WithinCapacity)
    (hvals : s.LegalValues) : s.Legal :=
  ⟨(shapeHolds_hex hst).mpr hshape, hcap, hvals⟩

/-- What R33 asks in IDLE and READING_HEX alike: no text record is in progress. -/
abbrev State.TextAtRest (s : State) : Prop :=
  s.crs = false ∧ s.lbuf = [] ∧ s.vbuf = [] ∧ s.record = []

section Effects
variable {s : State}

theorem textAtRest_of_idle (h : s.Legal) (hst : s.st = .idle) : s.TextAtRest := by
  obtain ⟨hcrs, -, hlbuf, hvbuf, hrec, -⟩ := (shapeHolds_idle hst).mp h.1
  exact ⟨hcrs, hlbuf, hvbuf, hrec⟩

theorem hexAtRest_of_idle (h : s.Legal) (hst : s.st = .idle) : s.HexAtRest := by
  obtain ⟨-, -, -, -, -, hhbuf, hhph, hhnib, hhbad⟩ := (shapeHolds_idle hst).mp h.1
  exact ⟨hhbuf, hhph, hhnib, hhbad⟩

theorem textAtRest_of_hex (h : s.Legal) (hst : s.st = .readingHex) : s.TextAtRest := by
  obtain ⟨hcrs, hlbuf, hvbuf, hrec, -⟩ := (shapeHolds_hex hst).mp h.1
  exact ⟨hcrs, hlbuf, hvbuf, hrec⟩

/-- R171, R175: a HEX frame begins where no text record is in progress. -/
theorem legal_beginHexFrame (ht : s.TextAtRest) (hd : s.dbgCause.toNat ≤ 0xA) : (beginHexFrame s).Legal := by
  obtain ⟨hcrs, hlbuf, hvbuf, hrec⟩ := ht
  refine legal_of_hexShape rfl ⟨hcrs, hlbuf, hvbuf, hrec, fun _ => rfl⟩ ?_ ⟨rfl, hd⟩
  simp [State.WithinCapacity, beginHexFrame, hlbuf, hvbuf, hrec]

/-- R210: an admitted MAX_LABEL holds the first byte of a label. -/
theorem legal_startRecord (b : Byte) (hc : s.cfg.Admitted) (hx : s.HexAtRest) (hd : s.dbgCause.toNat ≤ 0xA) :
    (startRecord b s).Legal := by
  obtain ⟨-, -, hlabel, -⟩ := hc
  have hfits : within s.cfg.maxLabel 1 = true := within_of_atLeast hlabel (by decide)
  obtain ⟨hhbuf, -⟩ := id hx
  refine legal_of_labelShape rfl ⟨rfl, rfl, hx⟩ ?_ ?_
  · simp [State.WithinCapacity, hhbuf, hfits]
  · simpa [State.LegalValues, hhbuf] using hd

/-- R121: the value begins empty, so nothing is asked of the Checksum field yet. -/
theorem legal_startValue (h : s.Legal) (hst : s.st = .readingLabel) : (startValue s).Legal := by
  obtain ⟨hshape, ⟨hlab, -, hrest⟩, hvals⟩ := h
  obtain ⟨-, -, hx⟩ := (shapeHolds_label hst).mp hshape
  exact legal_of_valueShape rfl ⟨hx, fun _ => ⟨by simp, by simp⟩⟩ ⟨hlab, within_zero _, hrest⟩ hvals

/-- R122: a label byte is taken only where there is room. -/
theorem legal_appendLabel (b : Byte) (h : s.Legal) (hst : s.st = .readingLabel) : (appendLabel b s).Legal := by
  obtain ⟨hroom, e⟩ | ⟨-, e⟩ := appendLabel_cases b s <;> rw [e]
  · obtain ⟨hshape, ⟨-, hrest⟩, hvals⟩ := h
    exact legal_of_labelShape hst ((shapeHolds_label hst).mp hshape) ⟨by simpa [within_succ] using hroom, hrest⟩ hvals
  · exact legal_discard _ _

/-- R143: a value byte is taken only where there is room, and not in the Checksum field. -/
theorem legal_appendValue (b : Byte) (h : s.Legal) (hst : s.st = .readingValue) (hck : s.isCk = false) :
    (appendValue b s).Legal := by
  obtain ⟨hroom, e⟩ | ⟨-, e⟩ := appendValue_cases b s <;> rw [e]
  · obtain ⟨hshape, ⟨hlab, -, hrest⟩, hvals⟩ := h
    obtain ⟨hx, -⟩ := (shapeHolds_value hst).mp hshape
    exact legal_of_valueShape hst ⟨hx, fun hck' => absurd hck' (ne_true_of_eq_false hck)⟩
      ⟨hlab, by simpa [within_succ] using hroom, hrest⟩ hvals
  · exact legal_discard _ _

/-- R144, R150: in the Checksum field the CR follows its one byte. -/
theorem legal_crSeen (a : Byte) (h : s.Legal) (hst : s.st = .readingValue)
    (hck : s.isCk = true → s.vbuf.length = 1) : ({ s with crs := true, acc := a } : State).Legal := by
  obtain ⟨hshape, hcap, hvals⟩ := h
  obtain ⟨hx, -⟩ := (shapeHolds_value hst).mp hshape
  exact legal_of_valueShape hst ⟨hx, fun hck' => ⟨(hck hck').le, fun _ => hck hck'⟩⟩ hcap hvals

/-- R146: the insertion keeps the record's capacity and its labels distinct. -/
theorem legal_flushField (h : s.Legal) (hst : s.st = .readingValue) : (flushField s).Legal := by
  obtain ⟨r, hins, e⟩ | ⟨-, e⟩ := flushField_cases s <;> rw [e]
  · obtain ⟨hshape, ⟨-, -, hrec, hhex, hnodup⟩, hvals⟩ := h
    obtain ⟨hx, -⟩ := (shapeHolds_value hst).mp hshape
    exact legal_of_labelShape rfl ⟨rfl, rfl, hx⟩
      ⟨within_zero _, within_zero _, insertField_within hins hrec, hhex, insertField_nodup hins hnodup⟩ hvals
  · exact legal_discard _ _

/-- R149: an admitted MAX_VALUE holds the checksum byte. -/
theorem legal_checksumByte (b a : Byte) (hc : s.cfg.Admitted) (h : s.Legal) (hst : s.st = .readingValue) :
    ({ s with vbuf := [b], acc := a } : State).Legal := by
  obtain ⟨-, -, -, hvalue, -⟩ := hc
  obtain ⟨hshape, ⟨hlab, -, hrest⟩, hvals⟩ := h
  obtain ⟨hx, -⟩ := (shapeHolds_value hst).mp hshape
  exact legal_of_valueShape hst ⟨hx, fun _ => ⟨le_rfl, fun _ => rfl⟩⟩
    ⟨hlab, within_of_atLeast hvalue le_rfl, hrest⟩ hvals

/-- R152: both ends of a record leave the resting state. -/
theorem legal_finishRecord (h : s.Legal) : (finishRecord s).Legal := by
  obtain ⟨-, e⟩ | ⟨r, -, ⟨-, e⟩ | ⟨-, e⟩⟩ := finishRecord_cases s <;> rw [e]
  · exact legal_discard _ _
  · exact legal_complete _ h.2.2.2
  · exact legal_discard _ _

/-- R174: both ends of a frame leave the resting state. -/
theorem legal_finishHexFrame (h : s.Legal) : (finishHexFrame s).Legal := by
  obtain ⟨-, e⟩ | ⟨-, e⟩ := finishHexFrame_cases s <;> rw [e]
  · exact legal_complete _ h.2.2.2
  · exact legal_discard _ _

/-- R178, and the overflow of R177: a bad frame is still a legal one. -/
theorem legal_frameBad (h : s.Legal) (hst : s.st = .readingHex) : ({ s with hbad := true } : State).Legal := by
  obtain ⟨hshape, hcap, hvals⟩ := h
  obtain ⟨hcrs, hlbuf, hvbuf, hrec, hnib⟩ := (shapeHolds_hex hst).mp hshape
  exact legal_of_hexShape hst ⟨hcrs, hlbuf, hvbuf, hrec, hnib⟩ hcap hvals

/-- R177: a digit fits where there is room, whatever becomes of the sum, as long as a nibble is held only while one is
pending. -/
theorem legal_appendDigit {b : Byte} (h : s.Legal) (hst : s.st = .readingHex) (hb : isHexDigit b = true)
    (hroom : hasRoom s.cfg.maxHex s.hbuf.length = true) (a : Byte) {n : Nibble} {p : Bool} (hn : p = false → n = 0x0) :
    ({ s with hbuf := s.hbuf ++ [b], acc := a, hnib := n, hph := p } : State).Legal := by
  obtain ⟨hcrs, hlbuf, hvbuf, hrec⟩ := textAtRest_of_hex h hst
  obtain ⟨-, ⟨hlab, hval, hfld, -, hnodup⟩, hdigits, hcause⟩ := h
  exact legal_of_hexShape hst ⟨hcrs, hlbuf, hvbuf, hrec, hn⟩
    ⟨hlab, hval, hfld, by simpa [within_succ] using hroom, hnodup⟩ ⟨by simpa [hb] using hdigits, hcause⟩

/-- R177: a lone digit leaves the held nibble alone, the first digit of a pair is held and pending, the second clears both. -/
theorem legal_takeDigit {b : Byte} (h : s.Legal) (hst : s.st = .readingHex) (hb : isHexDigit b = true) :
    (takeDigit b s).Legal := by
  obtain ⟨-, -, -, -, hnib⟩ := (shapeHolds_hex hst).mp h.1
  obtain ⟨-, e⟩ | ⟨hroom, ⟨-, e⟩ | ⟨-, -, e⟩ | ⟨-, -, e⟩⟩ := takeDigit_cases b s <;> rw [e]
  · exact legal_frameBad h hst
  · exact legal_appendDigit h hst hb hroom _ hnib
  · exact legal_appendDigit h hst hb hroom _ (by simp)
  · exact legal_appendDigit h hst hb hroom _ (fun _ => rfl)

end Effects

/-- R33 is kept by every instruction where it may run. -/
theorem legal_effectOf {i : Instr} {s : State} (h : Ready i s) : (effectOf i s).Legal := by
  obtain ⟨hc, hl, hrow⟩ := h
  obtain ⟨hst, hguard, hclass⟩ := rowApplies_iff.mp hrow
  have hcause : s.dbgCause.toNat ≤ 0xA := hl.2.2.2
  cases i with
  | idleMark => exact legal_beginHexFrame (textAtRest_of_idle hl hst.symm) hcause
  | idlePrint b => exact legal_startRecord b hc (hexAtRest_of_idle hl hst.symm) hcause
  | idleSkip | hexSkip => exact hl
  | lblTab => exact legal_startValue hl hst.symm
  | lblData b => exact legal_appendLabel b hl hst.symm
  | lblTerm | valBad | valNolf | ckBad | ckNolf => exact legal_discard _ s
  | valData b =>
    have hck : s.isCk = false ∧ s.crs = false := by simpa [Instr.guardHolds] using hguard
    exact legal_appendValue b hl hst.symm hck.1
  | valCr =>
    have hck : s.isCk = false ∧ s.crs = false := by simpa [Instr.guardHolds] using hguard
    exact legal_crSeen _ hl hst.symm (by simp [hck.1])
  | valLf => exact legal_flushField hl hst.symm
  | ckByte b => exact legal_checksumByte b _ hc hl hst.symm
  | ckCr =>
    have hck : (s.isCk = true ∧ s.vbuf.length = 1) ∧ s.crs = false := by simpa [Instr.guardHolds] using hguard
    exact legal_crSeen _ hl hst.symm (fun _ => hck.1.2)
  | ckLf => exact legal_finishRecord hl
  | hexTerm => exact legal_finishHexFrame hl
  | hexMark =>
    have htext : s.TextAtRest := textAtRest_of_hex hl hst.symm
    exact legal_beginHexFrame (s := report .hexRestart s) htext (causeCode_le .hexRestart)
  | hexDigit b =>
    have hdig : hcls s.cfg b = .dig := by simpa [Instr.classHolds] using hclass
    exact legal_takeDigit hl hst.symm (isHexDigit_of_dig hdig)
  | hexJunk => exact legal_frameBad hl hst.symm

/-- Settles O20: a reset edge gives the reset state, an edge without a byte keeps a legal state, and a byte runs the selected
row, whose effect is legal. -/
theorem stepAnswersOnlyLegalStates : Obligations.StepAnswersOnlyLegalStates := by
  intro s t h
  obtain ⟨c, es, hc, rfl⟩ | ⟨es, hc, hl, rfl⟩ | ⟨es, b, hc, hl, rfl⟩ := step_next_cases h
  · exact ⟨hc, legal_resetWith c es⟩
  · exact ⟨hc, (legal_withInput es s).mpr hl⟩
  · have hready := ready_startStep (ready_withInput es (ready_select hc hl b))
    obtain ⟨hcfg, -⟩ := effectOf_inputs (select s.cfg s.st s.guard b) (startStep (withInput es s))
    exact ⟨by rw [hcfg]; exact hc, legal_effectOf hready⟩

/-! ### The output register and the diagnostic port -/

/-- Two states show the same output register and diagnostic port (R30, R31). -/
def SameOutputs (t s : State) : Prop :=
  t.outValid = s.outValid ∧ t.outUnit = s.outUnit ∧ t.dbgDrop = s.dbgDrop ∧ t.dbgCause = s.dbgCause

theorem SameOutputs.rfl {s : State} : SameOutputs s s := ⟨Eq.refl _, Eq.refl _, Eq.refl _, Eq.refl _⟩

theorem SameOutputs.outputsAgree {s t : State} (h : SameOutputs t s) (hs : s.OutputsAgree) : t.OutputsAgree := by
  obtain ⟨hvalid, hunit, hdrop, hcause⟩ := h
  simpa [State.OutputsAgree, hvalid, hunit, hdrop, hcause] using hs

/-- A digit neither emits nor reports (R177). -/
theorem sameOutputs_takeDigit (b : Byte) (s : State) : SameOutputs (takeDigit b s) s := by
  obtain ⟨-, e⟩ | ⟨-, ⟨-, e⟩ | ⟨-, -, e⟩ | ⟨-, -, e⟩⟩ := takeDigit_cases b s <;> rw [e]
  all_goals exact SameOutputs.rfl

/-- All that an effect can show to the outside: nothing new, one reported cause, or one emitted unit, and never two of these
(R206, R207). -/
theorem effectOf_outputs (i : Instr) (s : State) :
    SameOutputs (effectOf i s) s ∨ (∃ c, SameOutputs (effectOf i s) (report c s)) ∨
      ∃ u, SameOutputs (effectOf i s) (emit u s) := by
  cases i with
  | idleMark | idlePrint | idleSkip | lblTab | valCr | ckByte | ckCr | hexJunk | hexSkip => exact .inl SameOutputs.rfl
  | lblTerm | valBad | valNolf | ckBad | ckNolf => exact .inr (.inl ⟨_, SameOutputs.rfl⟩)
  | hexMark => exact .inr (.inl ⟨.hexRestart, rfl, rfl, rfl, rfl⟩)
  | hexDigit b => exact .inl (sameOutputs_takeDigit b s)
  | lblData b =>
    rw [effectOf]
    obtain ⟨-, e⟩ | ⟨-, e⟩ := appendLabel_cases b s <;> rw [e]
    · exact .inl SameOutputs.rfl
    · exact .inr (.inl ⟨_, SameOutputs.rfl⟩)
  | valData b =>
    rw [effectOf]
    obtain ⟨-, e⟩ | ⟨-, e⟩ := appendValue_cases b s <;> rw [e]
    · exact .inl SameOutputs.rfl
    · exact .inr (.inl ⟨_, SameOutputs.rfl⟩)
  | valLf =>
    rw [effectOf]
    obtain ⟨r, -, e⟩ | ⟨-, e⟩ := flushField_cases s <;> rw [e]
    · exact .inl SameOutputs.rfl
    · exact .inr (.inl ⟨_, SameOutputs.rfl⟩)
  | ckLf =>
    rw [effectOf]
    obtain ⟨-, e⟩ | ⟨r, -, ⟨-, e⟩ | ⟨-, e⟩⟩ := finishRecord_cases s <;> rw [e]
    · exact .inr (.inl ⟨_, SameOutputs.rfl⟩)
    · exact .inr (.inr ⟨_, SameOutputs.rfl⟩)
    · exact .inr (.inl ⟨_, SameOutputs.rfl⟩)
  | hexTerm =>
    rw [effectOf]
    obtain ⟨-, e⟩ | ⟨-, e⟩ := finishHexFrame_cases s <;> rw [e]
    · exact .inr (.inr ⟨_, SameOutputs.rfl⟩)
    · exact .inr (.inl ⟨_, SameOutputs.rfl⟩)

theorem causeCode_pos (c : Cause) : 1 ≤ (causeCode c).toNat := by cases c <;> decide

/-! From the resting outputs of `startStep`, each of the three gives outputs in agreement. -/

theorem outputsAgree_startStep (s : State) : (startStep s).OutputsAgree := by simp [State.OutputsAgree]

theorem outputsAgree_report (c : Cause) (s : State) : (report c (startStep s)).OutputsAgree := by
  simp [State.OutputsAgree, causeCode_pos c, causeCode_le c]

theorem outputsAgree_emit (u : OutUnit) (s : State) : (emit u (startStep s)).OutputsAgree := by simp [State.OutputsAgree]

theorem outputsAgree_resetWith (c : Cfg) (es : List Edge) : (State.resetWith c es).OutputsAgree := by
  simp [State.OutputsAgree]

theorem outputsAgree_effectOf (i : Instr) (s : State) : (effectOf i (startStep s)).OutputsAgree := by
  obtain h | ⟨c, h⟩ | ⟨u, h⟩ := effectOf_outputs i (startStep s)
  · exact h.outputsAgree (outputsAgree_startStep s)
  · exact h.outputsAgree (outputsAgree_report c s)
  · exact h.outputsAgree (outputsAgree_emit u s)

/-- Settles O22: a reset edge puts the outputs at rest, an edge without a byte keeps them, and a byte runs a row, which shows
nothing, one cause or one unit. -/
theorem stepKeepsOutputsInAgreement : Obligations.StepKeepsOutputsInAgreement := by
  intro s t hs h
  obtain ⟨c, es, -, rfl⟩ | ⟨es, -, -, rfl⟩ | ⟨es, b, -, -, rfl⟩ := step_next_cases h
  · exact outputsAgree_resetWith c es
  · exact hs
  · exact outputsAgree_effectOf _ _

end Sys2Proof.Machine
end

section
/-! PROOFS for 20_memory.md: no instruction writes the inputs (R62, R283), the run of a concatenation is the two runs in
sequence (R59, R212), and each edge outside the contract is refused by its own name (R60, R81, R281, R283). -/

namespace Sys2Proof.Machine

/-- Settles O53: what an instruction answers is its effect, and neither the effect nor `startStep` writes the inputs. -/
theorem instructionsLeaveTheInputsAlone : Obligations.InstructionsLeaveTheInputsAlone := by
  intro i s t h
  obtain ⟨-, rfl⟩ := ready_of_exec_next h
  obtain ⟨hcfg, hinput⟩ := effectOf_inputs i (startStep s)
  exact ⟨hcfg.trans (startStep_cfg s), hinput.trans (startStep_input s)⟩

/-! ### Runs in sequence -/

/-- The outcome of a run with units emitted earlier put in front of its own (R59). -/
def withEarlierUnits (us : List OutUnit) :
    Host.Outcome (State × List OutUnit) Fault Refusal → Host.Outcome (State × List OutUnit) Fault Refusal
  | .next (t, vs) => .next (t, us ++ vs)
  | .fault r => .fault r
  | .refused r => .refused r

theorem withEarlierUnits_nil (o : Host.Outcome (State × List OutUnit) Fault Refusal) : withEarlierUnits [] o = o := by
  cases o <;> rfl

theorem withEarlierUnits_append (us vs : List OutUnit) (o : Host.Outcome (State × List OutUnit) Fault Refusal) :
    withEarlierUnits (us ++ vs) o = withEarlierUnits us (withEarlierUnits vs o) := by
  cases o with
  | next p => simp [withEarlierUnits]
  | fault | refused => rfl

/-- A run whose first byte completes is the run of the rest behind the first step's unit, however that run ends (R212). -/
theorem run_cons_of_feed {s t : State} {b : Byte} (hb : feed s b = .next t) (bs : List Byte) :
    run s (b :: bs) = withEarlierUnits t.outUnit.toList (run t bs) := by
  rw [run, hb]
  dsimp only
  cases run t bs <;> rfl

/-- A run that completes has completed its first byte and the run of the rest. -/
theorem run_cons_eq_next {s u : State} {b : Byte} {bs : List Byte} {us : List OutUnit}
    (h : run s (b :: bs) = .next (u, us)) :
    ∃ t vs, feed s b = .next t ∧ run t bs = .next (u, vs) ∧ us = t.outUnit.toList ++ vs := by
  cases hb : feed s b with
  | next t =>
    rw [run_cons_of_feed hb] at h
    cases hbs : run t bs with
    | next p => rw [hbs] at h; cases h; exact ⟨t, p.2, rfl, hbs, rfl⟩
    | fault | refused => rw [hbs] at h; cases h
  | fault | refused => rw [run, hb] at h; cases h

/-- R59, R212: behind a stream that completes, the run goes on from where that stream ended. -/
theorem run_append {s t : State} {p : List Byte} {us : List OutUnit} (h : run s p = .next (t, us)) (q : List Byte) :
    run s (p ++ q) = withEarlierUnits us (run t q) := by
  induction p generalizing s us with
  | nil =>
    rw [run_nil] at h
    cases h
    exact (withEarlierUnits_nil _).symm
  | cons b bs ih =>
    obtain ⟨m, vs, hb, hbs, rfl⟩ := run_cons_eq_next h
    rw [List.cons_append, run_cons_of_feed hb, ih hbs, withEarlierUnits_append]

/-- Settles O55: `run_append`, read for each way the second run can end. -/
theorem runsCompose : Obligations.RunsCompose := by
  intro s t p q us h
  rw [run_append h q]
  cases run t q <;> rfl

/-! ### The refusals of an edge -/

/-- A step refuses what its edge refuses. -/
theorem step_of_onEdge_stop {s : State} {e : Edge} {rest : List Edge} {r : Refusal} (hi : s.input = e :: rest)
    (h : onEdge e (withInput rest s) = .stop r) : step s = .refused r := by
  have hfetch : fetch s = .stop r := by rw [fetch, hi]; exact h
  rw [step, hfetch]

section Edge
variable {s : State} {e : Edge}

/-- R60, R281: two bytes at one edge, with or without reset (log 4). -/
theorem onEdge_twoBytes (h2 : 2 ≤ e.offers.length) (s : State) : onEdge e s = .stop .twoBytesInOneStep := by
  rw [onEdge, if_pos h2]

theorem onEdge_reset (h1 : e.offers.length ≤ 1) (hr : e.rst = true) (s : State) : onEdge e s = resetEdge e s := by
  rw [onEdge, if_neg (by omega), if_pos hr]

theorem onEdge_noReset (h1 : e.offers.length ≤ 1) (hr : e.rst = false) (s : State) : onEdge e s = runEdge e s := by
  rw [onEdge, if_neg (by omega), if_neg (by simp [hr])]

/-- R81, read for an edge with reset (log 6). -/
theorem resetEdge_configRefused (hc : ¬ (e.cfg.getD s.cfg).Admitted) : resetEdge e s = .stop .configRefused := by
  rw [resetEdge, if_neg hc]

/-- R283: without reset the configuration must not change. -/
theorem runEdge_configChanged (hg : e.cfg.getD s.cfg ≠ s.cfg) : runEdge e s = .stop .configChanged := by
  rw [runEdge, if_neg hg]

/-- R81: a configuration that breaks R9 is refused as a whole. -/
theorem runEdge_configRefused (hg : e.cfg.getD s.cfg = s.cfg) (hc : ¬ s.cfg.Admitted) :
    runEdge e s = .stop .configRefused := by
  rw [runEdge, if_pos hg, if_neg hc]

/-- I10: a state that breaks R33 is given no meaning. -/
theorem runEdge_invariantBroken (hg : e.cfg.getD s.cfg = s.cfg) (hc : s.cfg.Admitted) (hl : ¬ s.Legal) :
    runEdge e s = .stop .invariantBroken := by
  rw [runEdge, if_pos hg, if_pos hc, if_neg hl]

end Edge

/-- Settles O15: taking the edge from the input changes neither the configuration nor legality, so each clause is the refusal
of its edge. -/
theorem edgesOutsideTheContractAreRefused : Obligations.EdgesOutsideTheContractAreRefused := by
  intro s e rest hi
  refine ⟨fun h2 => ?_, fun h1 hr hc => ?_, fun h1 hr hg => ?_, fun h1 hr hg hc => ?_, fun h1 hr hg hc hl => ?_⟩ <;>
    apply step_of_onEdge_stop hi
  · exact onEdge_twoBytes h2 _
  · exact (onEdge_reset h1 hr _).trans (resetEdge_configRefused hc)
  · exact (onEdge_noReset h1 hr _).trans (runEdge_configChanged hg)
  · exact (onEdge_noReset h1 hr _).trans (runEdge_configRefused hg hc)
  · exact (onEdge_noReset h1 hr _).trans (runEdge_invariantBroken hg hc (mt (legal_withInput rest s).mp hl))

end Sys2Proof.Machine
end

section
/-! PROOFS for 30_encoding.md: the decoder and the encoder agree (R79, R84), the class functions (R75 to R78), a byte in a legal
state runs its row (R80, R201), and what the wire formats of R70 to R72 lead to (R83). -/

namespace Sys2Proof.Machine

/-! ### The byte classes -/

theorem isHexDigit_iff {b : Byte} :
    isHexDigit b = true ↔ (0x30 ≤ b ∧ b ≤ 0x39) ∨ (0x41 ≤ b ∧ b ≤ 0x46) ∨ (0x61 ≤ b ∧ b ≤ 0x66) := by
  simp [isHexDigit, BitVec.le_def, or_assoc]

theorem isPrintable_iff {b : Byte} : isPrintable b = true ↔ 0x20 ≤ b ∧ b ≤ 0x7E := by
  simp [isPrintable, BitVec.le_def]

/-- The value of a decimal digit (R75). -/
theorem hexval_toNat_decimal {b : Byte} (h : 0x30 ≤ b.toNat ∧ b.toNat ≤ 0x39) : (hexval b).toNat = b.toNat - 0x30 := by
  rw [hexval, if_pos h, BitVec.toNat_ofNat, Nat.mod_eq_of_lt (by omega)]

/-- The value of an upper-case digit (R75). -/
theorem hexval_toNat_upper {b : Byte} (h : 0x41 ≤ b.toNat ∧ b.toNat ≤ 0x46) :
    (hexval b).toNat = b.toNat - 0x41 + 10 := by
  rw [hexval, if_neg (by omega), if_pos h, BitVec.toNat_ofNat, Nat.mod_eq_of_lt (by omega)]

/-- The value of a lower-case digit (R75). -/
theorem hexval_toNat_lower {b : Byte} (h : 0x61 ≤ b.toNat ∧ b.toNat ≤ 0x66) :
    (hexval b).toNat = b.toNat - 0x61 + 10 := by
  rw [hexval, if_neg (by omega), if_neg (by omega), BitVec.toNat_ofNat, Nat.mod_eq_of_lt (by omega)]

@[simp] theorem zext8_toNat (v : Nibble) : (zext8 v).toNat = v.toNat := by
  rw [zext8, BitVec.toNat_setWidth, Nat.mod_eq_of_lt (by omega)]

/-- Settles O7: the tests of `isHexDigit` and `hexval` are the three ranges. -/
theorem hexDigitsAndTheirValues : Obligations.HexDigitsAndTheirValues := by
  refine ⟨fun b => isHexDigit_iff, fun b h => ?_, fun b h => ?_, fun b h => ?_⟩ <;>
    simp only [BitVec.le_def] at h <;> apply BitVec.eq_of_toNat_eq
  · rw [zext8_toNat, hexval_toNat_decimal h]; bv_omega
  · rw [zext8_toNat, hexval_toNat_upper h]; bv_omega
  · rw [zext8_toNat, hexval_toNat_lower h]; bv_omega

theorem icls_print {cfg : Cfg} {b : Byte} : icls cfg b = .print ↔ b ≠ cfg.hexMarker ∧ isPrintable b = true := by
  unfold icls
  split
  · simp_all
  · split <;> simp_all

theorem icls_skip {cfg : Cfg} {b : Byte} : icls cfg b = .skip ↔ b ≠ cfg.hexMarker ∧ isPrintable b = false := by
  unfold icls
  split
  · simp_all
  · split <;> simp_all

theorem tcls_data {b : Byte} : tcls b = .data ↔ b ≠ TAB ∧ b ≠ CR ∧ b ≠ LF := by
  rw [ne_eq, ne_eq, ne_eq, ← tcls_tab, ← tcls_cr, ← tcls_lf]
  cases tcls b <;> decide

theorem terminator_ne_marker {cfg : Cfg} (hc : cfg.Admitted) : cfg.hexTerminator ≠ cfg.hexMarker := by
  obtain ⟨-, ⟨-, hne⟩, -⟩ := hc
  exact hne

/-- R9: the marker is data while a text record is read. -/
theorem tcls_marker {cfg : Cfg} (hc : cfg.Admitted) : tcls cfg.hexMarker = .data := by
  obtain ⟨⟨htab, hcr, hlf, -⟩, -⟩ := hc
  exact tcls_data.mpr ⟨htab, hcr, hlf⟩

/-- R9: neither the terminator nor the marker is a hex digit, so every hex digit is of class DIG. -/
theorem hcls_dig {cfg : Cfg} (hc : cfg.Admitted) {b : Byte} : hcls cfg b = .dig ↔ isHexDigit b = true := by
  refine ⟨isHexDigit_of_dig, fun hb => ?_⟩
  obtain ⟨⟨-, -, -, hmark⟩, ⟨hterm, -⟩, -⟩ := hc
  have hbt : b ≠ cfg.hexTerminator := by rintro rfl; simp [hterm] at hb
  have hbm : b ≠ cfg.hexMarker := by rintro rfl; simp [hmark] at hb
  rw [hcls, if_neg hbt, if_neg hbm, if_pos hb]

theorem hcls_junk {cfg : Cfg} {b : Byte} :
    hcls cfg b = .junk ↔ b ≠ cfg.hexTerminator ∧ b ≠ cfg.hexMarker ∧ isHexDigit b = false := by
  unfold hcls
  split
  · simp_all
  · split
    · simp_all
    · split <;> simp_all

/-- Settles O9: one equivalence per class; R9 is used where the marker or the terminator meets another class. -/
theorem classFunctionsUnderAdmittedConfiguration : Obligations.ClassFunctionsUnderAdmittedConfiguration := by
  intro cfg b hc
  refine ⟨icls_mark, ?_, ?_, tcls_tab, tcls_cr, tcls_lf, tcls_data, tcls_marker hc, hcls_hterm,
    hcls_mark (terminator_ne_marker hc), hcls_dig hc, hcls_junk⟩
  · rw [icls_print, isPrintable_iff]
  · rw [icls_skip, ← isPrintable_iff, Bool.not_eq_true]

/-- Settles O8: the definitions at REF, with the two byte sets read as ranges; for the text classes LF and CR are tested in
the other order. -/
theorem classTableUnderReference : Obligations.ClassTableUnderReference := by
  intro b
  refine ⟨?_, ?_, ?_⟩
  · simp only [icls, isPrintable_iff, Cfg.ref]
  · by_cases hlf : b = 0x0A
    · subst hlf; decide
    · simp only [tcls, TAB, CR, LF, hlf, if_false]
  · simp only [hcls, isHexDigit_iff, Cfg.ref]

/-! ### The decoder and the encoder -/

theorem code_ofCode (c : BitVec 2) : (St.ofCode c).code = c := by
  revert c
  decide

/-- An operation word is its two fields put together: no bit of it is lost (R84). -/
@[simp] theorem opWord_wordState_wordByte (w : OpWord) : opWord (wordState w) (wordByte w) = w := by
  apply BitVec.eq_of_getLsbD_eq
  intro i hi
  rw [opWord_getLsbD, wordState, code_ofCode, wordByte, BitVec.getLsbD_extractLsb', BitVec.getLsbD_extractLsb']
  split
  · simp [*]
  · have hsub : i - 8 < 2 := by omega
    simp [hsub, Nat.add_sub_cancel' (Nat.le_of_not_lt ‹_›)]

/-- All that the decoder answers with an instruction: an admitted configuration, ten bits, and the dispatch's row. -/
theorem decode_eq_ok {cfg : Cfg} {g : Guard} {w : Nat} {i : Instr} :
    decode cfg g w = .ok i ↔ cfg.Admitted ∧ w < 1024 ∧
      select cfg (wordState (BitVec.ofNat 10 w)) g (wordByte (BitVec.ofNat 10 w)) = i := by
  by_cases hc : cfg.Admitted
  · by_cases hw : w < 1024
    · rw [decode, if_pos hc, if_pos hw, Except.ok.injEq]
      exact ⟨fun h => ⟨hc, hw, h⟩, fun h => h.2.2⟩
    · rw [decode, if_pos hc, if_neg hw]
      exact ⟨(nomatch ·), fun h => absurd h.2.1 hw⟩
  · rw [decode, if_neg hc]
    exact ⟨(nomatch ·), fun h => absurd h.1 hc⟩

/-- R79, uniqueness: an instruction whose row applies is the one that the dispatch selects for its byte. -/
theorem select_of_rowApplies {cfg : Cfg} {st : St} {g : Guard} {i : Instr} (hc : cfg.Admitted) (hg : g.Reachable st)
    (h : i.rowApplies cfg st g = true) : select cfg st g (i.byte cfg) = i := by
  obtain ⟨rfl, hguard, hclass⟩ := rowApplies_iff.mp h
  have hone : i.st = .readingValue → g.isCk = true → g.crs = true → g.vlen = 1 := fun hst hck => (hg.2.2 hst hck).2
  cases i <;>
    simp only [Instr.guardHolds, Instr.wellFormed, Instr.classHolds, Instr.st, Instr.byte, Bool.and_eq_true,
      Bool.or_eq_true, Bool.not_eq_true', beq_iff_eq, bne_iff_ne, forall_const] at hguard hclass hone ⊢
  case idleMark => simp [select, icls_mark.mpr]
  case idlePrint | idleSkip => simp [select, hclass]
  case lblTab => rfl
  case lblData => simp [select, hclass]
  case lblTerm => obtain hclass | hclass := hclass <;> simp [select, hclass]
  case valData => simp [select, hguard, hclass]
  case valCr => simp [select, hguard, tcls_cr.mpr]
  case valBad => obtain hclass | hclass := hclass <;> simp [select, hguard, hclass]
  case valLf => simp [select, hguard, tcls_lf.mpr]
  case valNolf b => cases hb : tcls b <;> simp_all [select]
  case ckByte => simp [select, hguard]
  case ckCr => simp [select, hguard, tcls_cr.mpr]
  case ckBad b => cases hb : tcls b <;> simp_all [select]
  case ckLf => simp [select, hguard, hone, tcls_lf.mpr]
  case ckNolf b => cases hb : tcls b <;> simp_all [select]
  case hexTerm => simp [select, hcls_hterm.mpr]
  case hexMark => simp [select, (hcls_mark (terminator_ne_marker hc)).mpr]
  case hexDigit | hexJunk => simp [select, hguard, hclass]
  case hexSkip => obtain hclass | hclass := hclass <;> simp [select, hguard, hclass]

/-- Settles O1: the encoded word holds the row's state and byte, and the dispatch selects the row that applies. -/
theorem decodeOfEncodeGivesInstruction : Obligations.DecodeOfEncodeGivesInstruction := by
  intro cfg g i hc hg hguard hclass
  rw [encode, decode_opWord hc, select_of_rowApplies hc hg (rowApplies_iff.mpr ⟨rfl, hguard, hclass⟩)]

/-- Settles O2: the dispatch answers a row of its state that carries its byte, and a word is its two fields. -/
theorem encodeOfDecodeGivesWord : Obligations.EncodeOfDecodeGivesWord := by
  intro cfg g w i h
  obtain ⟨hc, hw, rfl⟩ := decode_eq_ok.mp h
  rw [encode, select_st, select_byte _ _ _ _ (terminator_ne_marker hc), opWord_wordState_wordByte, BitVec.toNat_ofNat,
    Nat.mod_eq_of_lt hw]

/-- Settles O4: the row is the one that the dispatch selects. -/
theorem exactlyOneRowApplies : Obligations.ExactlyOneRowApplies := by
  intro cfg st g b hc hg
  refine ⟨select cfg st g b, ⟨select_rowApplies cfg st g b hg, select_byte cfg st g b (terminator_ne_marker hc)⟩, ?_⟩
  rintro j hj rfl
  exact (select_of_rowApplies hc hg hj).symm

/-- Settles O3: the two tests of the decoder. -/
theorem decodeAnswersExactlyOperationWords : Obligations.DecodeAnswersExactlyOperationWords := by
  intro cfg g w
  refine ⟨fun hc hw => ⟨_, decode_eq_ok.mpr ⟨hc, hw, rfl⟩⟩, fun hc hw => ?_, fun hc => ?_⟩
  · rw [decode, if_pos hc, if_neg (by omega)]
  · rw [decode, if_neg hc]

/-- Settles O5: ten evaluations of the decoder. -/
theorem sampleWordsDecodeToTheirRows : Obligations.SampleWordsDecodeToTheirRows := by
  refine ⟨?_, ?_, ?_, ?_, ?_, ?_, ?_, ?_, ?_, ?_⟩ <;> decide

/-! ### A byte in a legal state -/

/-- R201: without reset, an edge that offers one byte in a legal state runs the row that the dispatch selects. -/
theorem runEdge_byte {s : State} {e : Edge} {b : Byte} (ho : e.offers = [b]) (hg : e.cfg.getD s.cfg = s.cfg)
    (hc : s.cfg.Admitted) (hl : s.Legal) : runEdge e s = .run (select s.cfg s.st s.guard b) s := by
  rw [runEdge, if_pos hg, if_pos hc, if_pos hl, ho]
  simp only [decode_opWord hc]

/-- R200: such a step is the selected row run in the state less that edge. -/
theorem step_byte {s : State} {e : Edge} {rest : List Edge} {b : Byte} (hi : s.input = e :: rest) (hr : e.rst = false)
    (ho : e.offers = [b]) (hg : e.cfg.getD s.cfg = s.cfg) (hc : s.cfg.Admitted) (hl : s.Legal) :
    step s = exec (select s.cfg s.st s.guard b) (withInput rest s) := by
  have hedge : onEdge e (withInput rest s) = .run (select s.cfg s.st s.guard b) (withInput rest s) :=
    (onEdge_noReset (by simp [ho]) hr _).trans (runEdge_byte ho hg hc ((legal_withInput rest s).mpr hl))
  rw [step, fetch, hi]
  simp only [hedge]

/-- Settles O16: the selected row may run, and no effect writes the inputs. -/
theorem everyByteCompletesInEveryLegalState : Obligations.EveryByteCompletesInEveryLegalState := by
  intro s e rest b hi hr ho hg hc hl
  have hready := ready_withInput rest (ready_select hc hl b)
  obtain ⟨hcfg, hinput⟩ := effectOf_inputs (select s.cfg s.st s.guard b) (startStep (withInput rest s))
  exact ⟨_, (step_byte hi hr ho hg hc hl).trans (exec_next hready), hinput, hcfg⟩

/-! ### A table word that is placed (log 8) -/

/-- The three guards a table word is read under: two words have one of their own. -/
theorem tableGuard_cases (w : Nat) :
    (w = 0x20A ∧ tableGuard w = { crs := true }) ∨ (w = 0x200 ∧ tableGuard w = { isCk := true }) ∨ tableGuard w = {} := by
  unfold tableGuard
  split
  · exact .inl ⟨‹_›, rfl⟩
  · split
    · exact .inr (.inl ⟨‹_›, rfl⟩)
    · exact .inr (.inr rfl)

/-- A guard that `placeGuard` can put into a legal state: no byte is read yet, and what R33 ties to READING_VALUE is at rest in
the other states. -/
def PlaceableGuard (st : St) (g : Guard) : Prop :=
  g.vlen = 0 ∧ g.hbad = false ∧ (g.isCk = true → g.crs = false) ∧
  (st ≠ .readingValue → g.crs = false ∧ g.isCk = false)

/-- Both words with a guard of their own are words of READING_VALUE. -/
theorem placeableGuard_tableGuard (w : Nat) : PlaceableGuard (wordState (BitVec.ofNat 10 w)) (tableGuard w) := by
  obtain ⟨rfl, e⟩ | ⟨rfl, e⟩ | e := tableGuard_cases w <;> rw [e]
  · exact ⟨rfl, rfl, by decide, by decide⟩
  · exact ⟨rfl, rfl, by decide, by decide⟩
  · exact ⟨rfl, rfl, fun _ => rfl, fun _ => ⟨rfl, rfl⟩⟩

theorem isCk_placeGuard (st : St) (g : Guard) (s : State) : (placeGuard st g s).isCk = g.isCk := by
  cases hg : g.isCk <;> simp [State.isCk, placeGuard, hg, CK_LABEL]

/-- The guard that is placed is the guard of the state. -/
theorem guard_placeGuard (st : St) (g : Guard) (s : State) : (placeGuard st g s).guard = g := by
  have hvlen : (placeGuard st g s).vbuf.length = g.vlen := List.length_replicate
  rw [State.guard, isCk_placeGuard, hvlen]
  rfl

/-- R33 of a placed guard, state by state. -/
theorem shapeHolds_placeGuard {st : St} {g : Guard} (h : PlaceableGuard st g) (s : State) :
    (placeGuard st g s).shapeHolds = true := by
  obtain ⟨hvlen, hbad, hck, hrest⟩ := h
  cases st with
  | idle =>
    obtain ⟨hcrs, hck⟩ := hrest (by decide)
    exact (shapeHolds_idle rfl).mpr (by simp [State.IdleShape, placeGuard, hvlen, hbad, hcrs, hck])
  | readingLabel =>
    obtain ⟨hcrs, -⟩ := hrest (by decide)
    exact (shapeHolds_label rfl).mpr (by simp [State.LabelShape, State.HexAtRest, placeGuard, hvlen, hbad, hcrs])
  | readingValue =>
    refine (shapeHolds_value rfl).mpr ⟨⟨rfl, rfl, rfl, hbad⟩, fun hisCk => ?_⟩
    rw [isCk_placeGuard] at hisCk
    exact ⟨by simp [placeGuard, hvlen], fun hcrs => absurd hcrs (by simp [placeGuard, hck hisCk])⟩
  | readingHex =>
    obtain ⟨hcrs, hck⟩ := hrest (by decide)
    exact (shapeHolds_hex rfl).mpr (by simp [State.HexShape, placeGuard, hvlen, hcrs, hck])

theorem legal_placeGuard {st : St} {g : Guard} {s : State} (h : PlaceableGuard st g) (hc : s.cfg.Admitted)
    (hd : s.dbgCause.toNat ≤ 0xA) : (placeGuard st g s).Legal := by
  obtain ⟨-, -, hlabel, -⟩ := hc
  have hlbuf : (placeGuard st g s).lbuf.length ≤ 8 := by
    simp only [placeGuard]
    split <;> simp [CK_LABEL]
  obtain ⟨hvlen, -⟩ := id h
  exact ⟨shapeHolds_placeGuard h s, ⟨within_of_atLeast hlabel hlbuf, by simp [placeGuard, hvlen], by simp [placeGuard],
    by simp [placeGuard], by simp [placeGuard]⟩, rfl, hd⟩

theorem admitted_ref : Cfg.ref.Admitted := by decide

/-- A table word is read by the dispatch at its state, its byte and its guard. -/
theorem select_of_decodeTableWord {nbits w : Nat} {i : Instr} (h : decodeTableWord nbits w = some i) :
    select Cfg.ref (wordState (BitVec.ofNat 10 (tableWord nbits w))) (tableGuard (tableWord nbits w))
      (wordByte (BitVec.ofNat 10 (tableWord nbits w))) = i := by
  unfold decodeTableWord at h
  split at h
  · cases h
    exact (decode_eq_ok.mp ‹_›).2.2
  · cases h

/-- The guard of the state in which a table word is placed is the guard that the word is read under. -/
theorem guard_withFetchWord (s : State) (nbits w : Nat) :
    (s.withFetchWord nbits w).guard = tableGuard (tableWord nbits w) :=
  guard_placeGuard (wordState (BitVec.ofNat 10 (tableWord nbits w))) (tableGuard (tableWord nbits w)) (startStep s)

/-- From every state, placing a table word leads to a legal state. -/
theorem legal_withFetchWord (s : State) (nbits w : Nat) : (s.withFetchWord nbits w).Legal :=
  legal_placeGuard (s := { startStep s with cfg := Cfg.ref, input := (s.withFetchWord nbits w).input })
    (placeableGuard_tableGuard _) admitted_ref (by simp)

/-- Settles O6: the placed state is legal, its state register and guard are those the word is read under, and its next edge
offers the word's byte. -/
theorem placedTableWordIsRunByTheNextStep : Obligations.PlacedTableWordIsRunByTheNextStep := by
  intro s nbits w i h
  have hl := legal_withFetchWord s nbits w
  have hi := select_of_decodeTableWord h
  rw [← guard_withFetchWord s] at hi
  have hready : Ready i (withInput s.input (s.withFetchWord nbits w)) := by
    rw [← hi]
    exact ready_withInput s.input (ready_select (s := s.withFetchWord nbits w) admitted_ref hl _)
  have hstep : step (s.withFetchWord nbits w) = exec i (withInput s.input (s.withFetchWord nbits w)) := by
    rw [← hi]
    exact step_byte rfl rfl rfl rfl admitted_ref hl
  exact ⟨_, hstep.trans (exec_next hready), exec_next hready⟩

/-! ### Runs that emit nothing on the way -/

/-- R201: an instruction that may run is what its byte runs. -/
theorem feed_of_ready {i : Instr} {s : State} {b : Byte} (h : Ready i s) (hb : i.byte s.cfg = b) :
    feed s b = .next (effectOf i (startStep s)) := by
  subst hb
  obtain ⟨hc, hl, hrow⟩ := h
  rw [feed_legal hc hl, select_of_rowApplies hc (guard_reachable hl) hrow]

/-- A byte whose instruction emits nothing: the run goes on from the state it leads to. -/
theorem run_cons_of_ready {i : Instr} {s t : State} {b : Byte} (h : Ready i s) (hb : i.byte s.cfg = b)
    (he : effectOf i (startStep s) = t) (ht : t.outUnit = none) (bs : List Byte) : run s (b :: bs) = run t bs := by
  subst he
  rw [run_cons_of_feed (feed_of_ready h hb), ht]
  exact withEarlierUnits_nil _

/-- The last byte of a stream: the run ends in the state it leads to, with that state's unit. -/
theorem run_last_of_ready {i : Instr} {s t : State} {b : Byte} (h : Ready i s) (hb : i.byte s.cfg = b)
    (he : effectOf i (startStep s) = t) : run s [b] = .next (t, t.outUnit.toList) := by
  subst he
  rw [run_cons_of_feed (feed_of_ready h hb), run_nil, withEarlierUnits, List.append_nil]

/-! ### HEX frames (R72, R83) -/

/-- The digits of R83 are hex digits. -/
theorem isHexDigit_digitOf (v : Nibble) : isHexDigit (digitOf v) = true := by
  revert v
  decide

/-- The digit of a nibble has the nibble's value (R75, R83). -/
theorem hexval_digitOf (v : Nibble) : hexval (digitOf v) = v := by
  revert v
  decide

/-- A byte is its two nibbles, the high one first (00_scope.md R11). -/
theorem pairByte_nibbles (b : Byte) : pairByte (b.extractLsb' 4 4) (b.extractLsb' 0 4) = b := by
  apply BitVec.eq_of_getLsbD_eq
  intro i hi
  rw [pairByte, BitVec.getLsbD_append, BitVec.getLsbD_extractLsb', BitVec.getLsbD_extractLsb']
  split
  · simp [*]
  · have hsub : i - 4 < 4 := by omega
    simp [hsub, Nat.add_sub_cancel' (Nat.le_of_not_lt ‹_›)]

theorem hex2_length (bs : ByteSeq) : (hex2 bs).length = 2 * bs.length := by
  induction bs with
  | nil => rfl
  | cons b bs ih => simp only [hex2, List.length_cons, ih]; omega

/-- R83: the last byte of a frame brings the sum to its target. -/
theorem byteSum_hexSum (cfg : Cfg) (bs : ByteSeq) : byteSum (bs ++ [hexSum cfg bs]) = cfg.hexCkTarget := by
  simp [hexSum, BitVec.add_comm (byteSum bs)]

/-- The core between two digit pairs of a good HEX frame: the digits so far and their sum, all else at rest. -/
def inHexFrame (s : State) (p : ByteSeq) (a : Byte) : State :=
  { State.resetWith s.cfg s.input with st := .readingHex, hbuf := p, acc := a }

/-- The core inside a digit pair: the first digit is held. -/
def inDigitPair (s : State) (p : ByteSeq) (a : Byte) (c : Byte) : State :=
  { inHexFrame s (p ++ [c]) a with hnib := hexval c, hph := true }

/-- R177: without the leading nibble the first digit of a pair is held. -/
theorem takeDigit_first {s : State} (b : Byte) (hroom : hasRoom s.cfg.maxHex s.hbuf.length = true)
    (hnib : s.cfg.hexLeadingNibble = false) (hph : s.hph = false) :
    takeDigit b s = { s with hbuf := s.hbuf ++ [b], hnib := hexval b, hph := true } := by
  rw [takeDigit, if_pos hroom, if_neg (by simp [hnib]), if_pos hph]

/-- R177: without the leading nibble the second digit of a pair completes a byte, which is summed. -/
theorem takeDigit_second {s : State} (b : Byte) (hroom : hasRoom s.cfg.maxHex s.hbuf.length = true)
    (hnib : s.cfg.hexLeadingNibble = false) (hph : s.hph = true) :
    takeDigit b s = { s with
      hbuf := s.hbuf ++ [b], acc := accAdd s.acc (pairByte s.hnib (hexval b)), hnib := 0x0, hph := false } := by
  rw [takeDigit, if_pos hroom, if_neg (by simp [hnib]), if_neg (by simp [hph])]

/-- In a good frame every hex digit runs HEX.DIGIT (R79, R177). -/
theorem ready_hexDigit {s : State} {b : Byte} (hc : s.cfg.Admitted) (hl : s.Legal) (hst : s.st = .readingHex)
    (hgood : s.hbad = false) (hb : isHexDigit b = true) : Ready (.hexDigit b) s :=
  ⟨hc, hl, rowApplies_iff.mpr ⟨hst.symm, by simp [Instr.guardHolds, hgood], by simp [Instr.classHolds, hcls_dig hc, hb]⟩⟩

section HexFrame
variable {s : State} {p : ByteSeq} {a : Byte}

theorem legal_inHexFrame (hp : p.all isHexDigit = true) (hfit : within s.cfg.maxHex p.length = true) :
    (inHexFrame s p a).Legal :=
  legal_of_hexShape rfl ⟨rfl, rfl, rfl, rfl, fun _ => rfl⟩
    ⟨within_zero _, within_zero _, within_zero _, hfit, List.nodup_nil⟩ ⟨hp, Nat.zero_le _⟩

theorem legal_inDigitPair {c : Byte} (hp : p.all isHexDigit = true) (hcd : isHexDigit c = true)
    (hfit : within s.cfg.maxHex (p.length + 1) = true) : (inDigitPair s p a c).Legal :=
  legal_of_hexShape rfl ⟨rfl, rfl, rfl, rfl, fun h => nomatch h⟩
    ⟨within_zero _, within_zero _, within_zero _, by simpa [inDigitPair, inHexFrame] using hfit, List.nodup_nil⟩
    ⟨by simpa [inDigitPair, inHexFrame, hcd] using hp, Nat.zero_le _⟩

/-- R177: two digits that fit are one byte more in the sum. -/
theorem run_digitPair (hc : s.cfg.Admitted) (hnib : s.cfg.hexLeadingNibble = false) (hp : p.all isHexDigit = true)
    {c d : Byte} (hcd : isHexDigit c = true) (hdd : isHexDigit d = true)
    (hfit : within s.cfg.maxHex (p.length + 2) = true) (bs : List Byte) :
    run (inHexFrame s p a) (c :: d :: bs) =
      run (inHexFrame s (p ++ [c, d]) (a + pairByte (hexval c) (hexval d))) bs := by
  have hroom : hasRoom s.cfg.maxHex (p ++ [c]).length = true := by simpa [within_succ] using hfit
  have hfirst : Ready (.hexDigit c) (inHexFrame s p a) :=
    ready_hexDigit hc (legal_inHexFrame hp (within_mono hfit (by omega))) rfl rfl hcd
  have hsecond : Ready (.hexDigit d) (inDigitPair s p a c) :=
    ready_hexDigit hc (legal_inDigitPair hp hcd (within_mono hfit (by omega))) rfl rfl hdd
  have hheld : effectOf (.hexDigit c) (startStep (inHexFrame s p a)) = inDigitPair s p a c :=
    takeDigit_first c (within_succ _ p.length ▸ within_mono hfit (by omega)) hnib rfl
  have hsummed : effectOf (.hexDigit d) (startStep (inDigitPair s p a c)) =
      inHexFrame s (p ++ [c] ++ [d]) (a + pairByte (hexval c) (hexval d)) :=
    takeDigit_second d hroom hnib rfl
  calc run (inHexFrame s p a) (c :: d :: bs)
    _ = run (inDigitPair s p a c) (d :: bs) := run_cons_of_ready hfirst rfl hheld rfl _
    _ = run (inHexFrame s (p ++ [c] ++ [d]) (a + pairByte (hexval c) (hexval d))) bs :=
      run_cons_of_ready hsecond rfl hsummed rfl _
    _ = run (inHexFrame s (p ++ [c, d]) (a + pairByte (hexval c) (hexval d))) bs := by rw [List.append_assoc]; rfl

/-- R83: the digits of a byte sequence add its bytes to the sum. -/
theorem run_hex2 (hc : s.cfg.Admitted) (hnib : s.cfg.hexLeadingNibble = false) (hp : p.all isHexDigit = true)
    (bs : ByteSeq) (hfit : within s.cfg.maxHex (p.length + (hex2 bs).length) = true) (rest : List Byte) :
    run (inHexFrame s p a) (hex2 bs ++ rest) = run (inHexFrame s (p ++ hex2 bs) (a + byteSum bs)) rest := by
  induction bs generalizing p a with
  | nil => simp [hex2]
  | cons b bs ih =>
    simp only [hex2, List.length_cons] at hfit
    simp only [hex2, List.cons_append]
    rw [run_digitPair hc hnib hp (isHexDigit_digitOf _) (isHexDigit_digitOf _) (within_mono hfit (by omega)),
      hexval_digitOf, hexval_digitOf, pairByte_nibbles, ih (by simp [hp, isHexDigit_digitOf])]
    · simp [BitVec.add_assoc]
    · exact within_mono hfit (by simp; omega)

/-- R171: from IDLE the marker begins an empty frame. -/
theorem run_marker (hc : s.cfg.Admitted) (hl : s.Legal) (hst : s.st = .idle) (bs : List Byte) :
    run s (s.cfg.hexMarker :: bs) = run (inHexFrame s [] 0x00) bs := by
  have hready : Ready .idleMark s := ⟨hc, hl, rowApplies_iff.mpr ⟨hst.symm, rfl, rfl⟩⟩
  obtain ⟨hcrs, hlbuf, hvbuf, hrec⟩ := textAtRest_of_idle hl hst
  refine run_cons_of_ready hready rfl ?_ rfl bs
  simp [effectOf, beginHexFrame, startStep, inHexFrame, State.resetWith, accClear, hcrs, hlbuf, hvbuf, hrec]

/-- R174, R176: the terminator after a payload that reaches the target emits the payload. -/
theorem run_terminator (hc : s.cfg.Admitted) (hl : (inHexFrame s p a).Legal) (hp : 1 ≤ p.length)
    (ha : a = s.cfg.hexCkTarget) :
    run (inHexFrame s p a) [s.cfg.hexTerminator] = .next
      ({ State.resetWith s.cfg s.input with outValid := true, outUnit := some (.hexFrame p) }, [.hexFrame p]) := by
  have hready : Ready .hexTerm (inHexFrame s p a) := ⟨hc, hl, rowApplies_iff.mpr ⟨rfl, rfl, rfl⟩⟩
  have hvalid : (startStep (inHexFrame s p a)).hexValid := ⟨rfl, rfl, hp, ha⟩
  exact run_last_of_ready hready rfl (if_pos hvalid)

end HexFrame

theorem hex2_all_isHexDigit (bs : ByteSeq) : (hex2 bs).all isHexDigit = true := by
  induction bs with
  | nil => rfl
  | cons b bs ih => simp [hex2, isHexDigit_digitOf, ih]

/-- Settles O60: the marker begins the frame, the digits bring the sum to the target, and the terminator emits. -/
theorem validHexFrameIsEmitted : Obligations.ValidHexFrameIsEmitted := by
  intro s bs hc hl hst hnib hfit
  have hlen : (hex2 (bs ++ [hexSum s.cfg bs])).length = 2 * (bs.length + 1) := by simp [hex2_length]
  rw [← hlen] at hfit
  rw [hexFrameBytes, List.append_assoc, List.singleton_append, run_marker hc hl hst,
    run_hex2 hc hnib rfl _ (by simpa using hfit), List.nil_append, byteSum_hexSum]
  exact run_terminator hc (legal_inHexFrame (hex2_all_isHexDigit _) hfit) (by omega) (BitVec.zero_add _)

/-! ### The record that fields assemble to (R141) -/

/-- The labels of `firstLabels` are those of the fields. -/
theorem mem_firstLabels {l : ByteSeq} {fs : List Field} : l ∈ firstLabels fs ↔ l ∈ labels fs := by
  induction fs with
  | nil => rfl
  | cons f fs ih =>
    by_cases h : l = f.label
    · simp [firstLabels, labels, h]
    · simpa [firstLabels, labels, h] using ih

theorem firstLabels_nodup (fs : List Field) : (firstLabels fs).Nodup := by
  induction fs with
  | nil => exact List.nodup_nil
  | cons f fs ih => exact List.nodup_cons.mpr ⟨by simp, ih.filter _⟩

/-- Fields behind others add labels only behind theirs. -/
theorem firstLabels_prefix (fs gs : List Field) : firstLabels fs <+: firstLabels (fs ++ gs) := by
  induction fs with
  | nil => exact List.nil_prefix
  | cons f fs ih => exact List.prefix_cons_inj f.label |>.mpr (ih.filter _)

/-- One more field adds its label where it is new. -/
theorem firstLabels_concat (fs : List Field) (f : Field) :
    firstLabels (fs ++ [f]) = if f.label ∈ firstLabels fs then firstLabels fs else firstLabels fs ++ [f.label] := by
  induction fs with
  | nil => rfl
  | cons g fs ih =>
    rw [List.cons_append, firstLabels, ih, firstLabels]
    by_cases hfg : g.label = f.label
    · by_cases hf : f.label ∈ firstLabels fs <;> simp [hf, hfg]
    · by_cases hf : f.label ∈ firstLabels fs <;> simp [hf, Ne.symm hfg]

/-- The last field with a label gives it its value. -/
theorem lastValue_concat (l : ByteSeq) (fs : List Field) (f : Field) :
    lastValue l (fs ++ [f]) = if f.label = l then some f.value else lastValue l fs := by
  induction fs with
  | nil => rfl
  | cons g fs ih =>
    rw [List.cons_append, lastValue, ih]
    by_cases hl : f.label = l
    · simp [hl]
    · rw [if_neg hl, if_neg hl, lastValue]

@[simp] theorem labels_assembled (fs : List Field) : labels (assembled fs) = firstLabels fs := by
  simp [labels, assembled, Function.comp_def]

@[simp] theorem assembled_length (fs : List Field) : (assembled fs).length = (firstLabels fs).length :=
  List.length_map _

/-- A field whose label is there overwrites its value, at its place. -/
theorem assembled_concat_of_mem {fs : List Field} {f : Field} (h : f.label ∈ firstLabels fs) :
    assembled (fs ++ [f]) = overwrite (assembled fs) f.label f.value := by
  rw [assembled, firstLabels_concat, if_pos h, overwrite, assembled, List.map_map]
  refine List.map_congr_left fun l _ => ?_
  by_cases hl : f.label = l <;> simp [lastValue_concat, hl, eq_comm]

/-- A field with a new label goes to the end. -/
theorem assembled_concat_of_notMem {fs : List Field} {f : Field} (h : f.label ∉ firstLabels fs) :
    assembled (fs ++ [f]) = assembled fs ++ [f] := by
  rw [assembled, firstLabels_concat, if_neg h, List.map_append]
  refine congrArg₂ _ (List.map_congr_left fun l hl => ?_) (by simp [lastValue_concat])
  have hne : f.label ≠ l := fun e => h (e ▸ hl)
  simp [lastValue_concat, hne]

/-- Inserting the next field is assembling one field more, where the labels fit (R141). -/
theorem insertField_assembled {cap : Capacity} {fs : List Field} {f : Field}
    (hfit : within cap (firstLabels (fs ++ [f])).length = true) :
    insertField cap (assembled fs) f.label f.value = some (assembled (fs ++ [f])) := by
  by_cases h : f.label ∈ firstLabels fs
  · rw [insertField, if_pos (by simpa using h), assembled_concat_of_mem h]
  · rw [firstLabels_concat, if_neg h, List.length_append, List.length_singleton, within_succ] at hfit
    rw [insertField, if_neg (by simpa using h), if_pos (by simpa using hfit), assembled_concat_of_notMem h]

/-! ### Text records (R70, R71): the phases of a field -/

/-- What `fieldsFit` asks of one field (R70, R71). -/
structure FieldFits (cfg : Cfg) (f : Field) : Prop where
  label_data : f.label.all isData = true
  value_data : f.value.all isData = true
  label_ne : f.label ≠ CK_LABEL
  label_within : within cfg.maxLabel f.label.length = true
  value_within : within cfg.maxValue f.value.length = true

/-- What `fieldsFit` asks: of each field, of the number of labels, and of the first byte. -/
theorem fieldsFit_iff {cfg : Cfg} {fs : List Field} :
    fieldsFit cfg fs = true ↔ (∀ f ∈ fs, FieldFits cfg f) ∧ within cfg.maxFields ((firstLabels fs).length + 1) = true ∧
      ∃ b bs, recordPreamble fs = b :: bs ∧ icls cfg b = .print := by
  have hfield : ∀ f : Field, (f.label.all isData && f.value.all isData && f.label != CK_LABEL &&
      within cfg.maxLabel f.label.length && within cfg.maxValue f.value.length) = true ↔ FieldFits cfg f := fun f => by
    simp only [Bool.and_eq_true, bne_iff_ne]
    exact ⟨fun ⟨⟨⟨⟨hlab, hval⟩, hne⟩, hlabLen⟩, hvalLen⟩ => ⟨hlab, hval, hne, hlabLen, hvalLen⟩,
      fun h => ⟨⟨⟨⟨h.label_data, h.value_data⟩, h.label_ne⟩, h.label_within⟩, h.value_within⟩⟩
  rw [fieldsFit, Bool.and_eq_true, Bool.and_eq_true, List.all_eq_true, and_assoc]
  simp only [hfield]
  cases recordPreamble fs <;> simp

/-- What R33 asks of the record in progress. -/
def RecordFits (cfg : Cfg) (r : Record) : Prop :=
  within cfg.maxFields r.length = true ∧ (labels r).Nodup

theorem recordFits_nil (cfg : Cfg) : RecordFits cfg [] := ⟨within_zero _, List.nodup_nil⟩

/-- The core while the label of a field is read. -/
def inLabel (s : State) (r : Record) (a : Byte) (l : ByteSeq) : State :=
  { State.resetWith s.cfg s.input with st := .readingLabel, acc := a, lbuf := l, record := r }

/-- The core while the value of a field is read; `c` says whether its CR was seen. -/
def inValue (s : State) (r : Record) (a : Byte) (l v : ByteSeq) (c : Bool) : State :=
  { State.resetWith s.cfg s.input with
    st := .readingValue, crs := c, acc := a, lbuf := l, vbuf := v, record := r }

section Text
variable {s : State} {r : Record} {a : Byte} {l v : ByteSeq} {c : Bool}

theorem legal_inLabel (hr : RecordFits s.cfg r) (hl : within s.cfg.maxLabel l.length = true) : (inLabel s r a l).Legal := by
  obtain ⟨hlen, hnodup⟩ := hr
  exact legal_of_labelShape rfl ⟨rfl, rfl, rfl, rfl, rfl, rfl⟩ ⟨hl, within_zero _, hlen, within_zero _, hnodup⟩
    ⟨rfl, Nat.zero_le _⟩

theorem guard_inValue :
    (inValue s r a l v c).guard = { crs := c, isCk := l == CK_LABEL, vlen := v.length, hbad := false } := rfl

theorem legal_inValue (hr : RecordFits s.cfg r) (hl : within s.cfg.maxLabel l.length = true)
    (hv : within s.cfg.maxValue v.length = true) (hck : l = CK_LABEL → v.length ≤ 1 ∧ (c = true → v.length = 1)) :
    (inValue s r a l v c).Legal := by
  obtain ⟨hlen, hnodup⟩ := hr
  refine legal_of_valueShape rfl ⟨⟨rfl, rfl, rfl, rfl⟩, fun h => hck ?_⟩ ⟨hl, hv, hlen, within_zero _, hnodup⟩
    ⟨rfl, Nat.zero_le _⟩
  exact eq_of_beq h

/-- R122: the bytes of a label that fits go to the label and to the sum. -/
theorem run_labelBytes (hc : s.cfg.Admitted) (hr : RecordFits s.cfg r) {bs : ByteSeq} (hbs : bs.all isData = true)
    (hfit : within s.cfg.maxLabel (l ++ bs).length = true) (rest : List Byte) :
    run (inLabel s r a l) (bs ++ rest) = run (inLabel s r (a + byteSum bs) (l ++ bs)) rest := by
  induction bs generalizing a l with
  | nil => simp
  | cons b bs ih =>
    obtain ⟨hb, hbs⟩ : isData b = true ∧ bs.all isData = true := by simpa using hbs
    have hroom : hasRoom s.cfg.maxLabel l.length = true := by
      rw [← within_succ]
      exact within_mono hfit (by simp)
    have hready : Ready (.lblData b) (inLabel s r a l) :=
      ⟨hc, legal_inLabel hr (within_of_hasRoom hroom), rowApplies_iff.mpr ⟨rfl, rfl, hb⟩⟩
    have hstep : effectOf (.lblData b) (startStep (inLabel s r a l)) = inLabel s r (a + b) (l ++ [b]) := if_pos hroom
    calc run (inLabel s r a l) (b :: (bs ++ rest))
      _ = run (inLabel s r (a + b) (l ++ [b])) (bs ++ rest) := run_cons_of_ready hready rfl hstep rfl _
      _ = run (inLabel s r (a + b + byteSum bs) (l ++ [b] ++ bs)) rest := ih hbs (by simpa using hfit)
      _ = run (inLabel s r (a + byteSum (b :: bs)) (l ++ b :: bs)) rest := by
        rw [byteSum_cons, BitVec.add_assoc, List.append_assoc, List.singleton_append]

/-- R121: the TAB ends the label and begins an empty value. -/
theorem run_tab (hc : s.cfg.Admitted) (hr : RecordFits s.cfg r) (hl : within s.cfg.maxLabel l.length = true)
    (rest : List Byte) : run (inLabel s r a l) (TAB :: rest) = run (inValue s r (a + TAB) l [] false) rest := by
  have hready : Ready .lblTab (inLabel s r a l) := ⟨hc, legal_inLabel hr hl, rowApplies_iff.mpr ⟨rfl, rfl, rfl⟩⟩
  exact run_cons_of_ready hready rfl rfl rfl rest

/-- R143: the bytes of an ordinary value that fits go to the value and to the sum. -/
theorem run_valueBytes (hc : s.cfg.Admitted) (hr : RecordFits s.cfg r) (hl : within s.cfg.maxLabel l.length = true)
    (hck : l ≠ CK_LABEL) {bs : ByteSeq} (hbs : bs.all isData = true)
    (hfit : within s.cfg.maxValue (v ++ bs).length = true) (rest : List Byte) :
    run (inValue s r a l v false) (bs ++ rest) = run (inValue s r (a + byteSum bs) l (v ++ bs) false) rest := by
  induction bs generalizing a v with
  | nil => simp
  | cons b bs ih =>
    obtain ⟨hb, hbs⟩ : isData b = true ∧ bs.all isData = true := by simpa using hbs
    have hroom : hasRoom s.cfg.maxValue v.length = true := by
      rw [← within_succ]
      exact within_mono hfit (by simp)
    have hready : Ready (.valData b) (inValue s r a l v false) :=
      ⟨hc, legal_inValue hr hl (within_of_hasRoom hroom) (absurd · hck),
        rowApplies_iff.mpr ⟨rfl, by simp [guard_inValue, Instr.guardHolds, hck], hb⟩⟩
    have hstep : effectOf (.valData b) (startStep (inValue s r a l v false)) =
        inValue s r (a + b) l (v ++ [b]) false := if_pos hroom
    calc run (inValue s r a l v false) (b :: (bs ++ rest))
      _ = run (inValue s r (a + b) l (v ++ [b]) false) (bs ++ rest) := run_cons_of_ready hready rfl hstep rfl _
      _ = run (inValue s r (a + b + byteSum bs) l (v ++ [b] ++ bs) false) rest := ih hbs (by simpa using hfit)
      _ = run (inValue s r (a + byteSum (b :: bs)) l (v ++ b :: bs) false) rest := by
        rw [byteSum_cons, BitVec.add_assoc, List.append_assoc, List.singleton_append]

/-- R144, R146: the terminator of an ordinary field is summed and puts the field into the record. -/
theorem run_fieldEnd {r' : Record} (hc : s.cfg.Admitted) (hr : RecordFits s.cfg r)
    (hl : within s.cfg.maxLabel l.length = true) (hck : l ≠ CK_LABEL) (hv : within s.cfg.maxValue v.length = true)
    (hins : insertField s.cfg.maxFields r l v = some r') (rest : List Byte) :
    run (inValue s r a l v false) (CR :: LF :: rest) = run (inLabel s r' (a + CR + LF) []) rest := by
  have hcr : Ready .valCr (inValue s r a l v false) :=
    ⟨hc, legal_inValue hr hl hv (absurd · hck),
      rowApplies_iff.mpr ⟨rfl, by simp [guard_inValue, Instr.guardHolds, hck], rfl⟩⟩
  have hlf : Ready .valLf (inValue s r (a + CR) l v true) :=
    ⟨hc, legal_inValue hr hl hv (absurd · hck),
      rowApplies_iff.mpr ⟨rfl, by simp [guard_inValue, Instr.guardHolds, hck], rfl⟩⟩
  have hflush : effectOf .valLf (startStep (inValue s r (a + CR) l v true)) = inLabel s r' (a + CR + LF) [] := by
    obtain ⟨q, hq, e⟩ | ⟨hnone, -⟩ := flushField_cases (startStep (inValue s r (a + CR) l v true))
    · obtain rfl : q = r' := Option.some.inj (hq.symm.trans hins)
      exact e
    · cases hins.symm.trans hnone
  calc run (inValue s r a l v false) (CR :: LF :: rest)
    _ = run (inValue s r (a + CR) l v true) (LF :: rest) := run_cons_of_ready hcr rfl rfl rfl _
    _ = run (inLabel s r' (a + CR + LF) []) rest := run_cons_of_ready hlf rfl hflush rfl _

/-- R71: a field that fits is summed and put into the record. -/
theorem run_fieldBytes {r' : Record} {f : Field} (hc : s.cfg.Admitted) (hr : RecordFits s.cfg r)
    (hf : FieldFits s.cfg f) (hins : insertField s.cfg.maxFields r f.label f.value = some r') (rest : List Byte) :
    run (inLabel s r a []) (fieldBytes f ++ rest) = run (inLabel s r' (a + byteSum (fieldBytes f)) []) rest := by
  have hbytes : fieldBytes f ++ rest = f.label ++ TAB :: (f.value ++ CR :: LF :: rest) := by simp [fieldBytes]
  have hsum : a + byteSum (fieldBytes f) = a + byteSum f.label + TAB + byteSum f.value + CR + LF := by
    simp [fieldBytes, BitVec.add_assoc]
  rw [hbytes, hsum]
  calc run (inLabel s r a []) (f.label ++ TAB :: (f.value ++ CR :: LF :: rest))
    _ = run (inLabel s r (a + byteSum f.label) f.label) (TAB :: (f.value ++ CR :: LF :: rest)) :=
      run_labelBytes (l := []) hc hr hf.label_data hf.label_within _
    _ = run (inValue s r (a + byteSum f.label + TAB) f.label [] false) (f.value ++ CR :: LF :: rest) :=
      run_tab hc hr hf.label_within _
    _ = run (inValue s r (a + byteSum f.label + TAB + byteSum f.value) f.label f.value false) (CR :: LF :: rest) :=
      run_valueBytes (v := []) hc hr hf.label_within hf.label_ne hf.value_data hf.value_within _
    _ = run (inLabel s r' (a + byteSum f.label + TAB + byteSum f.value + CR + LF) []) rest :=
      run_fieldEnd hc hr hf.label_within hf.label_ne hf.value_within hins rest

end Text

/-- R25: the record that fields assemble to has distinct labels, so it is legal where they fit. -/
theorem recordFits_assembled {cfg : Cfg} {fs : List Field} (h : within cfg.maxFields (firstLabels fs).length = true) :
    RecordFits cfg (assembled fs) :=
  ⟨by rwa [assembled_length], by rw [labels_assembled]; exact firstLabels_nodup fs⟩

/-- R70, R141: fields that fit, behind the fields `done`, are summed and assembled. -/
theorem run_fields {s : State} {a : Byte} (hc : s.cfg.Admitted) (done fs : List Field)
    (hfs : ∀ f ∈ fs, FieldFits s.cfg f) (hfit : within s.cfg.maxFields (firstLabels (done ++ fs)).length = true)
    (rest : List Byte) :
    run (inLabel s (assembled done) a []) (fs.flatMap fieldBytes ++ rest) =
      run (inLabel s (assembled (done ++ fs)) (a + byteSum (fs.flatMap fieldBytes)) []) rest := by
  induction fs generalizing done a with
  | nil => simp
  | cons f fs ih =>
    obtain ⟨hf, hfs⟩ := List.forall_mem_cons.mp hfs
    have happend : done ++ f :: fs = done ++ [f] ++ fs := by simp
    have hdone : within s.cfg.maxFields (firstLabels done).length = true :=
      within_mono hfit (firstLabels_prefix done _).length_le
    rw [happend] at hfit ⊢
    have hnext : within s.cfg.maxFields (firstLabels (done ++ [f])).length = true :=
      within_mono hfit (firstLabels_prefix (done ++ [f]) fs).length_le
    rw [List.flatMap_cons, List.append_assoc,
      run_fieldBytes hc (recordFits_assembled hdone) hf (insertField_assembled hnext), ih _ hfs hfit,
      byteSum_append, BitVec.add_assoc]

/-! ### The Checksum field (R148 to R152) -/

/-- R149, R150: the Checksum field, with any byte `x`, leads to the final test with `x` in the sum. -/
theorem run_checksumField {s : State} {r : Record} {a : Byte} (hc : s.cfg.Admitted) (hr : RecordFits s.cfg r) (x : Byte) :
    run (inLabel s r a []) (CK_LABEL ++ [TAB, x, CR, LF]) =
      run (inValue s r (a + byteSum CK_LABEL + TAB + x) CK_LABEL [x] true) [LF] := by
  obtain ⟨-, -, hlabel, hvalue, -⟩ := id hc
  have hl : within s.cfg.maxLabel CK_LABEL.length = true := within_of_atLeast hlabel le_rfl
  have hv : within s.cfg.maxValue [x].length = true := within_of_atLeast hvalue le_rfl
  have hbyte : Ready (.ckByte x) (inValue s r (a + byteSum CK_LABEL + TAB) CK_LABEL [] false) :=
    ⟨hc, legal_inValue hr hl (within_zero _) (by simp), rowApplies_iff.mpr ⟨rfl, rfl, rfl⟩⟩
  have hcr : Ready .ckCr (inValue s r (a + byteSum CK_LABEL + TAB + x) CK_LABEL [x] false) :=
    ⟨hc, legal_inValue hr hl hv (by simp), rowApplies_iff.mpr ⟨rfl, rfl, rfl⟩⟩
  calc run (inLabel s r a []) (CK_LABEL ++ [TAB, x, CR, LF])
    _ = run (inLabel s r (a + byteSum CK_LABEL) CK_LABEL) [TAB, x, CR, LF] := 
      run_labelBytes (l := []) hc hr (by decide) hl _
    _ = run (inValue s r (a + byteSum CK_LABEL + TAB) CK_LABEL [] false) [x, CR, LF] := run_tab hc hr hl _
    _ = run (inValue s r (a + byteSum CK_LABEL + TAB + x) CK_LABEL [x] false) [CR, LF] :=
      run_cons_of_ready hbyte rfl rfl rfl _
    _ = run (inValue s r (a + byteSum CK_LABEL + TAB + x) CK_LABEL [x] true) [LF] :=
      run_cons_of_ready hcr rfl rfl rfl _

/-- The state behind the LF of the Checksum field (R152): the record emitted where the sum is zero, else discarded. -/
def afterRecord (s : State) (r : Record) (a : Byte) : State :=
  if a = 0x00 then { State.resetWith s.cfg s.input with outValid := true, outUnit := some (.record r) }
  else { State.resetWith s.cfg s.input with dbgDrop := true, dbgCause := 0x8 }

/-- R152: the LF of the Checksum field tests the sum, where the record has room for the field. -/
theorem run_ckLf {s : State} {r r' : Record} {a x : Byte} (hc : s.cfg.Admitted) (hr : RecordFits s.cfg r)
    (hins : insertField s.cfg.maxFields r CK_LABEL [x] = some r') :
    run (inValue s r a CK_LABEL [x] true) [LF] = .next (afterRecord s r' a, (afterRecord s r' a).outUnit.toList) := by
  obtain ⟨-, -, hlabel, hvalue, -⟩ := id hc
  have hready : Ready .ckLf (inValue s r a CK_LABEL [x] true) :=
    ⟨hc, legal_inValue hr (within_of_atLeast hlabel le_rfl) (within_of_atLeast hvalue le_rfl) (by simp),
      rowApplies_iff.mpr ⟨rfl, rfl, rfl⟩⟩
  refine run_last_of_ready hready rfl ?_
  obtain ⟨hnone, -⟩ | ⟨q, hq, htest⟩ := finishRecord_cases (startStep (inValue s r a CK_LABEL [x] true))
  · cases hins.symm.trans hnone
  · obtain rfl : q = r' := Option.some.inj (hq.symm.trans hins)
    obtain ⟨hzero, e⟩ | ⟨hzero, e⟩ := htest
    · exact e.trans (if_pos (eq_of_beq hzero)).symm
    · exact e.trans (if_neg (ne_of_beq_false hzero)).symm

/-- A printable byte is no structural byte (R74, R77). -/
theorem isData_of_print {cfg : Cfg} {b : Byte} (h : icls cfg b = .print) : isData b = true := by
  obtain ⟨-, hprint⟩ := icls_print.mp h
  have hdata : tcls b = .data :=
    tcls_data.mpr ⟨by rintro rfl; revert hprint; decide, by rintro rfl; revert hprint; decide,
      by rintro rfl; revert hprint; decide⟩
  rw [isData, hdata]
  rfl

/-- R210, R102: in IDLE a byte of class PRINT does what it would do as the first byte of an empty label, with the seed as
the sum so far. -/
theorem run_firstByte {s : State} {b : Byte} (hc : s.cfg.Admitted) (hl : s.Legal) (hst : s.st = .idle)
    (hb : icls s.cfg b = .print) (bs : List Byte) : run s (b :: bs) = run (inLabel s [] s.cfg.checksumSeed []) (b :: bs) := by
  have hready : Ready (.idlePrint b) s := ⟨hc, hl, rowApplies_iff.mpr ⟨hst.symm, rfl, by simp [Instr.classHolds, hb]⟩⟩
  obtain ⟨hhbuf, hhph, hhnib, hhbad⟩ := hexAtRest_of_idle hl hst
  have hstart : effectOf (.idlePrint b) (startStep s) = inLabel s [] (s.cfg.checksumSeed + b) [b] := by
    simp [effectOf, startRecord, accSeed, startStep, inLabel, State.resetWith, hhbuf, hhph, hhnib, hhbad]
  obtain ⟨-, -, hlabel, -⟩ := id hc
  have hlabelled : run (inLabel s [] s.cfg.checksumSeed []) (b :: bs) =
      run (inLabel s [] (s.cfg.checksumSeed + byteSum [b]) [b]) bs :=
    run_labelBytes (l := []) (bs := [b]) hc (recordFits_nil s.cfg) (by simp [isData_of_print hb])
      (within_of_atLeast hlabel (by simp)) bs
  calc run s (b :: bs)
    _ = run (inLabel s [] (s.cfg.checksumSeed + b) [b]) bs := run_cons_of_ready hready rfl hstart rfl bs
    _ = run (inLabel s [] s.cfg.checksumSeed []) (b :: bs) := by simp [hlabelled]

/-- R70: a record whose fields fit, with any checksum byte, runs to the final test with the whole window in the sum. -/
theorem run_record {s : State} {fs : List Field} (x : Byte) (hc : s.cfg.Admitted) (hl : s.Legal) (hst : s.st = .idle)
    (hfs : fieldsFit s.cfg fs = true) :
    run s (recordPreamble fs ++ [x, CR, LF]) =
      run (inValue s (assembled fs) (s.cfg.checksumSeed + byteSum (recordPreamble fs) + x) CK_LABEL [x] true) [LF] := by
  obtain ⟨hfields, hfit, b, bs, hpre, hb⟩ := fieldsFit_iff.mp hfs
  have hlabels : within s.cfg.maxFields (firstLabels ([] ++ fs)).length = true := within_mono hfit (Nat.le_succ _)
  have hbytes : recordPreamble fs ++ [x, CR, LF] = fs.flatMap fieldBytes ++ (CK_LABEL ++ [TAB, x, CR, LF]) := by
    simp [recordPreamble]
  have hfirst : run s (recordPreamble fs ++ [x, CR, LF]) =
      run (inLabel s (assembled []) s.cfg.checksumSeed []) (recordPreamble fs ++ [x, CR, LF]) := by
    rw [hpre]
    exact run_firstByte hc hl hst hb _
  rw [hfirst, hbytes, run_fields hc [] fs hfields hlabels, run_checksumField hc (recordFits_assembled hlabels)]
  simp [recordPreamble, BitVec.add_assoc]

/-- R152: the Checksum field has room behind fields that fit, and goes to the end of the record. -/
theorem insertField_checksum {cfg : Cfg} {fs : List Field} (x : Byte) (hfs : fieldsFit cfg fs = true) :
    insertField cfg.maxFields (assembled fs) CK_LABEL [x] = some (assembled fs ++ [⟨CK_LABEL, [x]⟩]) := by
  obtain ⟨hfields, hfit, -⟩ := fieldsFit_iff.mp hfs
  have hnew : CK_LABEL ∉ labels (assembled fs) := by
    rw [labels_assembled, mem_firstLabels, labels, List.mem_map]
    rintro ⟨f, hf, e⟩
    exact (hfields f hf).label_ne e
  rw [insertField, if_neg hnew, if_pos (by rwa [assembled_length, ← within_succ])]

/-- Settles O58: the record runs to the LF of its Checksum field, which tests the sum. -/
theorem textRecordIsEmittedExactlyWhenItsSumIsZero : Obligations.TextRecordIsEmittedExactlyWhenItsSumIsZero := by
  intro s fs x hc hl hst hfs
  obtain ⟨-, hfit, -⟩ := fieldsFit_iff.mp hfs
  have hr : RecordFits s.cfg (assembled fs) := recordFits_assembled (within_mono hfit (Nat.le_succ _))
  rw [run_record x hc hl hst hfs, run_ckLf hc hr (insertField_checksum x hfs), afterRecord]
  refine ⟨fun hzero => ?_, fun hne => ?_⟩
  · rw [if_pos hzero]
    rfl
  · rw [if_neg hne]
    rfl

end Sys2Proof.Machine
end

section
/-! PROOFS for 40_checksum_accumulator.md: the laws of the modulo-256 sum and of the checksum byte (R108, R83), which bytes of a
text record enter the sum (R101, R103, R104), and that one corrupted value byte never gives a record (R286). -/

namespace Sys2Proof.Machine

/-! ### The sum and the checksum byte -/

theorem byteSum_eq_sum (p : ByteSeq) : byteSum p = p.sum := by
  induction p with
  | nil => rfl
  | cons b p ih => rw [byteSum_cons, ih, List.sum_cons]

/-- R108: the order of the bytes does not matter. -/
theorem byteSum_perm {p q : ByteSeq} (h : p.Perm q) : byteSum p = byteSum q := by
  rw [byteSum_eq_sum, byteSum_eq_sum, h.sum_eq]

/-- R108: one changed byte changes the sum, since either byte may be summed first. -/
theorem byteSum_changedByte (p q : ByteSeq) {b c : Byte} (h : b ≠ c) : byteSum (p ++ b :: q) ≠ byteSum (p ++ c :: q) := by
  rw [byteSum_perm List.perm_middle, byteSum_perm List.perm_middle, byteSum_cons, byteSum_cons]
  exact fun e => h ((BitVec.add_left_inj _).mp e)

/-- R83: the checksum byte is the negative of what it closes. -/
theorem checkByte_eq_neg (seed : Byte) (p : ByteSeq) : checkByte seed p = -(seed + byteSum p) := by
  apply BitVec.eq_of_toNat_eq
  rw [checkByte, BitVec.toNat_ofNat, BitVec.toNat_neg, Nat.mod_mod]

/-- R83: seed, window and checksum byte sum to zero. -/
theorem sum_checkByte (seed : Byte) (p : ByteSeq) : seed + byteSum p + checkByte seed p = 0x00 := by
  rw [checkByte_eq_neg]
  exact BitVec.add_right_neg _

/-- The checksum byte of one window closes another only where both have the same sum. -/
theorem byteSum_eq_of_sum_checkByte {seed : Byte} {p q : ByteSeq} (h : seed + byteSum q + checkByte seed p = 0x00) :
    byteSum q = byteSum p :=
  (BitVec.add_right_inj _).mp ((BitVec.add_left_inj _).mp (h.trans (sum_checkByte seed p).symm))

/-- Settles O43: the three laws above. -/
theorem checksumArithmetic : Obligations.ChecksumArithmetic :=
  ⟨fun _ _ => byteSum_perm, fun p q _ _ => byteSum_changedByte p q, sum_checkByte⟩

/-! ### The bytes of the window -/

/-- R101, R103, R104: the effect of a row of the two text states ends in IDLE or adds the row's byte, but for CK.CR. -/
theorem effectOf_acc_of_text {i : Instr} (hst : i.st = .readingLabel ∨ i.st = .readingValue) (s : State) :
    (effectOf i s).st = .idle ∨ (effectOf i s).acc = if i = .ckCr then s.acc else s.acc + i.byte s.cfg := by
  cases i with
  | idleMark | idlePrint | idleSkip | hexTerm | hexMark | hexDigit | hexJunk | hexSkip =>
    obtain h | h := hst <;> cases h
  | lblTab | valCr | ckByte | ckCr => exact .inr rfl
  | lblTerm | valBad | valNolf | ckBad | ckNolf => exact .inl rfl
  | lblData b =>
    rw [effectOf]
    obtain ⟨-, e⟩ | ⟨-, e⟩ := appendLabel_cases b s <;> rw [e]
    · exact .inr rfl
    · exact .inl rfl
  | valData b =>
    rw [effectOf]
    obtain ⟨-, e⟩ | ⟨-, e⟩ := appendValue_cases b s <;> rw [e]
    · exact .inr rfl
    · exact .inl rfl
  | valLf =>
    rw [effectOf]
    obtain ⟨r, -, e⟩ | ⟨-, e⟩ := flushField_cases s <;> rw [e]
    · exact .inr rfl
    · exact .inl rfl
  | ckLf =>
    rw [effectOf]
    obtain ⟨-, e⟩ | ⟨r, -, ⟨-, e⟩ | ⟨-, e⟩⟩ := finishRecord_cases s <;> rw [e]
    all_goals exact .inl rfl

/-- Settles O45: the row is one of a text state, and its effect does not end in IDLE. -/
theorem windowBytesAreSummed : Obligations.WindowBytesAreSummed := by
  intro i s t h hst hgoesOn
  obtain ⟨⟨-, -, hrow⟩, rfl⟩ := ready_of_exec_next h
  obtain ⟨hrowSt, -⟩ := rowApplies_iff.mp hrow
  exact (effectOf_acc_of_text (hrowSt ▸ hst) (startStep s)).resolve_left hgoesOn

/-! ### One corrupted value byte -/

/-- A byte of a value stands at one place in the window of its record (R70, R71), behind one byte at least. -/
theorem recordPreamble_valueByte (fs gs : List Field) (l p q : ByteSeq) :
    ∃ a pre post, ∀ b : Byte, recordPreamble (fs ++ ⟨l, p ++ b :: q⟩ :: gs) = a :: pre ++ b :: post := by
  obtain ⟨a, pre, hpre⟩ := List.exists_cons_of_ne_nil (l := fs.flatMap fieldBytes ++ l ++ [TAB] ++ p) (by simp)
  refine ⟨a, pre, q ++ [CR, LF] ++ gs.flatMap fieldBytes ++ CK_LABEL ++ [TAB], fun b => ?_⟩
  rw [← hpre]
  simp [recordPreamble, fieldBytes]

/-- The labels of a list of fields do not depend on a value. -/
theorem firstLabels_changedValue (fs gs : List Field) (l v w : ByteSeq) :
    firstLabels (fs ++ ⟨l, v⟩ :: gs) = firstLabels (fs ++ ⟨l, w⟩ :: gs) := by
  induction fs with
  | nil => rfl
  | cons f fs ih => rw [List.cons_append, List.cons_append, firstLabels, firstLabels, ih]

/-- A field that fits still does with one value byte replaced by another that is not structural. -/
theorem FieldFits.changedValueByte {cfg : Cfg} {l p q : ByteSeq} {b c : Byte} (h : FieldFits cfg ⟨l, p ++ b :: q⟩)
    (hc : isData c = true) : FieldFits cfg ⟨l, p ++ c :: q⟩ where
  label_data := h.label_data
  value_data := by
    have hdata := h.value_data
    simp only [List.all_append, List.all_cons, Bool.and_eq_true] at hdata ⊢
    obtain ⟨hp, -, hq⟩ := hdata
    exact ⟨hp, hc, hq⟩
  label_ne := h.label_ne
  label_within := h.label_within
  value_within := by simpa using h.value_within

/-- Fields that fit still do with one value byte replaced by another that is not structural. -/
theorem fieldsFit_changedValueByte {cfg : Cfg} {fs gs : List Field} {l p q : ByteSeq} {b c : Byte} (hc : isData c = true)
    (h : fieldsFit cfg (fs ++ ⟨l, p ++ b :: q⟩ :: gs) = true) : fieldsFit cfg (fs ++ ⟨l, p ++ c :: q⟩ :: gs) = true := by
  obtain ⟨hfields, hfit, b₀, bs, hpre, hprint⟩ := fieldsFit_iff.mp h
  obtain ⟨a, pre, post, hplace⟩ := recordPreamble_valueByte fs gs l p q
  obtain ⟨rfl, -⟩ : a = b₀ ∧ pre ++ b :: post = bs := by simpa [hplace] using hpre
  refine fieldsFit_iff.mpr ⟨?_, ?_, a, pre ++ c :: post, hplace c, hprint⟩
  · simp only [List.forall_mem_append, List.forall_mem_cons] at hfields ⊢
    obtain ⟨hfs, hf, hgs⟩ := hfields
    exact ⟨hfs, hf.changedValueByte hc, hgs⟩
  · rwa [firstLabels_changedValue fs gs l _ (p ++ b :: q)]

/-- Settles O59: the corrupted fields still fit, and the checksum byte of the record as it was does not close the changed
sum, so the record is discarded (O58). -/
theorem oneCorruptedValueByteEmitsNothing : Obligations.OneCorruptedValueByteEmitsNothing := by
  intro s fs gs l p q b c hcfg hl hst hc hbc hfs
  obtain ⟨-, hdiscard⟩ :=
    textRecordIsEmittedExactlyWhenItsSumIsZero s _ _ hcfg hl hst (fieldsFit_changedValueByte hc hfs)
  refine hdiscard fun hzero => ?_
  have hsame := byteSum_eq_of_sum_checkByte hzero
  obtain ⟨a, pre, post, hplace⟩ := recordPreamble_valueByte fs gs l p q
  rw [hplace, hplace] at hsame
  exact byteSum_changedByte (a :: pre) post hbc hsame.symm

end Sys2Proof.Machine
end

section
/-! PROOFS for 41_field_buffer.md: the three rows of READING_LABEL (R121 to R123), every row that only discards (R205, R242),
and that no row of the two text states begins a HEX frame (90_conflicts.md C8). -/

namespace Sys2Proof.Machine

/-! ### The rows of the two text states -/

/-- Where a row of a text state leads: it stays, begins a value, begins a label, or goes to rest. -/
theorem effectOf_st_of_text {i : Instr} (hst : i.st = .readingLabel ∨ i.st = .readingValue) (s : State) :
    (effectOf i s).st = s.st ∨ (effectOf i s).st = .readingValue ∨ (effectOf i s).st = .readingLabel ∨
      (effectOf i s).st = .idle := by
  cases i with
  | idleMark | idlePrint | idleSkip | hexTerm | hexMark | hexDigit | hexJunk | hexSkip =>
    obtain h | h := hst <;> cases h
  | valCr | ckByte | ckCr => exact .inl rfl
  | lblTab => exact .inr (.inl rfl)
  | lblTerm | valBad | valNolf | ckBad | ckNolf => exact .inr (.inr (.inr rfl))
  | lblData b =>
    rw [effectOf]
    obtain ⟨-, e⟩ | ⟨-, e⟩ := appendLabel_cases b s <;> rw [e]
    · exact .inl rfl
    · exact .inr (.inr (.inr rfl))
  | valData b =>
    rw [effectOf]
    obtain ⟨-, e⟩ | ⟨-, e⟩ := appendValue_cases b s <;> rw [e]
    · exact .inl rfl
    · exact .inr (.inr (.inr rfl))
  | valLf =>
    rw [effectOf]
    obtain ⟨r, -, e⟩ | ⟨-, e⟩ := flushField_cases s <;> rw [e]
    · exact .inr (.inr (.inl rfl))
    · exact .inr (.inr (.inr rfl))
  | ckLf =>
    rw [effectOf]
    obtain ⟨-, e⟩ | ⟨r, -, ⟨-, e⟩ | ⟨-, e⟩⟩ := finishRecord_cases s <;> rw [e]
    all_goals exact .inr (.inr (.inr rfl))

/-- Settles O54: the row is one of a text state, and none of the states such a row leads to is READING_HEX. -/
theorem noHexFrameBeginsInsideARecord : Obligations.NoHexFrameBeginsInsideARecord := by
  intro i s t h hst
  obtain ⟨⟨-, -, hrow⟩, rfl⟩ := ready_of_exec_next h
  obtain ⟨hrowSt, -⟩ := rowApplies_iff.mp hrow
  obtain e | e | e | e := effectOf_st_of_text (hrowSt ▸ hst) (startStep s)
  · obtain hs | hs := hst <;> simp [e, hs]
  all_goals simp [e]

/-! ### The rows of READING_LABEL -/

/-- Settles O29: the equation is `exec_next` with the effect of R121 on the state with its outputs at rest. -/
theorem lblTabStartsValue : Obligations.LblTabStartsValue :=
  fun _ h => exec_next h

/-- Settles O30: the two cases of R122, and `startStep` writes neither the label nor its capacity. -/
theorem lblDataAppendsOrOverflows : Obligations.LblDataAppendsOrOverflows := by
  intro b s h
  rw [exec_next h, effectOf]
  obtain ⟨hroom, e⟩ | ⟨hfull, e⟩ := appendLabel_cases b (startStep s) <;> rw [e]
  · rw [startStep_cfg, startStep_lbuf] at hroom
    rw [if_pos hroom]; rfl
  · rw [startStep_cfg, startStep_lbuf] at hfull
    rw [if_neg (by simp [hfull]), discard_startStep]; rfl

/-! ### The rows that only discard -/

/-- R205: a row whose effect is a discard leaves the reset state, its inputs kept, with the cause on the diagnostic port. -/
theorem exec_of_discards {i : Instr} {s : State} {c : Cause} (h : Ready i s) (hi : effectOf i = discard c) :
    exec i s = .next { State.resetWith s.cfg s.input with dbgDrop := true, dbgCause := causeCode c } := by
  rw [exec_next h, hi, discard_startStep]

/-- Settles O31: each of the five rows is a discard (R123, R145, R147, R151, R153), and `causeCode` gives its code (R242). -/
theorem badBytesDiscardTheRecord : Obligations.BadBytesDiscardTheRecord :=
  fun _ _ =>
    ⟨fun h => exec_of_discards (c := .termInLabel) h rfl,
     fun h => exec_of_discards (c := .badInValue) h rfl,
     fun h => exec_of_discards (c := .crWithoutLf) h rfl,
     fun h => exec_of_discards (c := .ckValueTooLong) h rfl,
     fun h => exec_of_discards (c := .crWithoutLf) h rfl⟩

end Sys2Proof.Machine
end

section
/-! PROOFS for 42_record_assembler.md: what `insert` does to the values of a record (R141), the rows of READING_VALUE (R143 to
R152), which of them a value phase uses (R142), and where the Checksum field and an emitted record can stand (R152, R154). -/

namespace Sys2Proof.Machine

/-! ### Lookups in a record (R12, R141) -/

theorem lookup_cons (f : Field) (r : Record) (k : ByteSeq) :
    lookup (f :: r) k = if f.label = k then some f.value else lookup r k := rfl

theorem overwrite_cons (f : Field) (r : Record) (l v : ByteSeq) :
    overwrite (f :: r) l v = (if f.label = l then { f with value := v } else f) :: overwrite r l v := rfl

/-- The label that is overwritten has the new value, where the record has it. -/
theorem lookup_overwrite_same {r : Record} {l : ByteSeq} (h : l ∈ labels r) (v : ByteSeq) :
    lookup (overwrite r l v) l = some v := by
  induction r with
  | nil => cases h
  | cons f r ih =>
    rw [overwrite_cons, lookup_cons]
    by_cases hf : f.label = l
    · simp [hf]
    · have hr : l ∈ labels r := (List.mem_cons.mp h).resolve_left (Ne.symm hf)
      simp [hf, ih hr]

/-- Every other label keeps its value. -/
theorem lookup_overwrite_of_ne {k l : ByteSeq} (h : k ≠ l) (r : Record) (v : ByteSeq) :
    lookup (overwrite r l v) k = lookup r k := by
  induction r with
  | nil => rfl
  | cons f r ih =>
    rw [overwrite_cons, lookup_cons, lookup_cons, ih]
    by_cases hf : f.label = l
    · simp [hf, h.symm]
    · simp [hf]

/-- Settles O42: the three cases of `insert`, with the lookups after an overwriting. -/
theorem insertOverwritesAppendsOrOverflows : Obligations.InsertOverwritesAppendsOrOverflows := by
  intro cap r l v _
  obtain ⟨hl, e⟩ | ⟨hl, hroom, e⟩ | ⟨hl, hfull, e⟩ := insertField_cases cap r l v
  · exact ⟨fun _ => ⟨_, e, labels_overwrite r l v, lookup_overwrite_same hl v, fun _ hk => lookup_overwrite_of_ne hk r v⟩,
      fun hnew => absurd hl hnew, fun hnew => absurd hl hnew⟩
  · exact ⟨fun hold => absurd hold hl, fun _ _ => e, fun _ hfull => by simp [hroom] at hfull⟩
  · exact ⟨fun hold => absurd hold hl, fun _ hroom => by simp [hfull] at hroom, fun _ _ => e⟩

/-! ### The rows of an ordinary field -/

/-- Settles O32: the two cases of R143, and `startStep` writes neither the value nor its capacity. -/
theorem valDataAppendsOrOverflows : Obligations.ValDataAppendsOrOverflows := by
  intro b s h
  rw [exec_next h, effectOf]
  obtain ⟨hroom, e⟩ | ⟨hfull, e⟩ := appendValue_cases b (startStep s) <;> rw [e]
  · rw [startStep_cfg, startStep_vbuf] at hroom
    rw [if_pos hroom]; rfl
  · rw [startStep_cfg, startStep_vbuf] at hfull
    rw [if_neg (by simp [hfull]), discard_startStep]; rfl

/-- Settles O33: the equation is `exec_next` with the effect of R144 on the state with its outputs at rest. -/
theorem valCrMarksTerminator : Obligations.ValCrMarksTerminator :=
  fun _ h => exec_next h

/-- Settles O34: the two cases of R146, told apart by what `insert` answers. -/
theorem valLfFlushesFieldOrOverflows : Obligations.ValLfFlushesFieldOrOverflows := by
  intro s h
  rw [exec_next h, effectOf]
  obtain ⟨q, hq, e⟩ | ⟨hnone, e⟩ := flushField_cases (startStep s) <;> rw [e]
  · refine ⟨fun r hr => ?_, fun hr => (nomatch hr.symm.trans hq)⟩
    obtain rfl : r = q := Option.some.inj (hr.symm.trans hq)
    rfl
  · exact ⟨fun r hr => (nomatch hr.symm.trans hnone), fun _ => rfl⟩

/-! ### The rows of the Checksum field -/

/-- Settles O35: the equation is `exec_next` with the effect of R149 on the state with its outputs at rest. -/
theorem ckByteTakesAnyByte : Obligations.CkByteTakesAnyByte :=
  fun _ _ h => exec_next h

/-- Settles O36: the equation is `exec_next` with the effect of R150 on the state with its outputs at rest. -/
theorem ckCrLeavesTheSum : Obligations.CkCrLeavesTheSum :=
  fun _ h => exec_next h

/-- `ACC_VALID` is the sum being zero (R106). -/
theorem accValid_iff {s : State} : s.accValid = true ↔ s.acc = 0x00 := beq_iff_eq

/-- Settles O37: the three cases of R152, told apart by what `insert` answers and then by the sum. -/
theorem ckLfEmitsOrDiscards : Obligations.CkLfEmitsOrDiscards := by
  intro s h
  rw [exec_next h, effectOf]
  obtain ⟨hnone, e⟩ | ⟨q, hq, htest⟩ := finishRecord_cases (startStep s)
  · rw [e]
    exact ⟨fun _ => rfl, fun r hr => (nomatch hr.symm.trans hnone)⟩
  · refine ⟨fun hr => (nomatch hr.symm.trans hq), fun r hr => ?_⟩
    obtain rfl : r = q := Option.some.inj (hr.symm.trans hq)
    obtain ⟨hvalid, e⟩ | ⟨hvalid, e⟩ := htest <;> rw [e]
    · have hzero : s.acc = 0x00 := accValid_iff.mp hvalid
      exact ⟨fun _ => rfl, fun hne => absurd hzero hne⟩
    · have hne : s.acc ≠ 0x00 := fun hzero => by simp [accValid_iff.mpr hzero] at hvalid
      exact ⟨fun hzero => absurd hzero hne, fun _ => rfl⟩

/-! ### The rules of a value phase (R142) -/

/-- `is_ck` as a test of the label (R32). -/
theorem isCk_iff {s : State} : s.isCk = true ↔ s.lbuf = CK_LABEL := beq_iff_eq

/-- R79: of the rows of READING_VALUE whose guard holds, those of the Checksum field are those that ask for `is_ck`. -/
theorem isCk_iff_checksumRow {i : Instr} {g : Guard} (hst : i.st = .readingValue) (hg : i.guardHolds g = true) :
    g.isCk = true ↔ i = .ckCr ∨ i = .ckLf ∨ ∃ b, i = .ckByte b ∨ i = .ckBad b ∨ i = .ckNolf b := by
  cases i with
  | idleMark | idlePrint | idleSkip | lblTab | lblData | lblTerm | hexTerm | hexMark | hexDigit | hexJunk | hexSkip => cases hst
  | valData | valCr | valBad | valLf | valNolf =>
    have hck : g.isCk = false := by simp_all [Instr.guardHolds]
    simp [hck]
  | ckByte | ckCr | ckBad | ckLf | ckNolf =>
    have hck : g.isCk = true := by simp_all [Instr.guardHolds]
    simp [hck]

/-- R142: a row of READING_VALUE ends the value phase or does not write the label. -/
theorem effectOf_lbuf_of_value {i : Instr} (hst : i.st = .readingValue) (s : State) :
    (effectOf i s).st ≠ .readingValue ∨ (effectOf i s).lbuf = s.lbuf := by
  cases i with
  | idleMark | idlePrint | idleSkip | lblTab | lblData | lblTerm | hexTerm | hexMark | hexDigit | hexJunk | hexSkip => cases hst
  | valCr | ckByte | ckCr => exact .inr rfl
  | valBad | valNolf | ckBad | ckNolf => exact .inl nofun
  | valData b =>
    rw [effectOf]
    obtain ⟨-, e⟩ | ⟨-, e⟩ := appendValue_cases b s <;> rw [e]
    · exact .inr rfl
    · exact .inl nofun
  | valLf =>
    rw [effectOf]
    obtain ⟨r, -, e⟩ | ⟨-, e⟩ := flushField_cases s <;> rw [e]
    all_goals exact .inl nofun
  | ckLf =>
    rw [effectOf]
    obtain ⟨-, e⟩ | ⟨r, -, ⟨-, e⟩ | ⟨-, e⟩⟩ := finishRecord_cases s <;> rw [e]
    all_goals exact .inl nofun

/-- Settles O51: the guard of the row decides by `is_ck`, and `is_ck` reads the label alone, which the phase keeps. -/
theorem valuePhaseKeepsItsRules : Obligations.ValuePhaseKeepsItsRules := by
  intro i s t h hst
  obtain ⟨⟨-, -, hrow⟩, rfl⟩ := ready_of_exec_next h
  obtain ⟨hrowSt, hguard, -⟩ := rowApplies_iff.mp hrow
  have hvalue : i.st = .readingValue := hrowSt.trans hst
  refine ⟨isCk_iff_checksumRow hvalue hguard, fun hstays => ?_⟩
  have hlbuf : (effectOf i (startStep s)).lbuf = s.lbuf :=
    (effectOf_lbuf_of_value hvalue (startStep s)).resolve_left (not_not_intro hstays)
  exact ⟨hlbuf, by rw [State.isCk, State.isCk, hlbuf]⟩

/-! ### The record in progress -/

/-- All that an effect can do to the record in progress: keep it, empty it, or insert the field just read, which is VAL.LF. -/
theorem effectOf_record (i : Instr) (s : State) :
    (effectOf i s).record = s.record ∨ (effectOf i s).record = [] ∨
      (i = .valLf ∧ insertField s.cfg.maxFields s.record s.lbuf s.vbuf = some (effectOf i s).record) := by
  cases i with
  | idleMark | idleSkip | lblTab | valCr | ckByte | ckCr | hexMark | hexJunk | hexSkip => exact .inl rfl
  | idlePrint | lblTerm | valBad | valNolf | ckBad | ckNolf => exact .inr (.inl rfl)
  | lblData b =>
    rw [effectOf]
    obtain ⟨-, e⟩ | ⟨-, e⟩ := appendLabel_cases b s <;> rw [e]
    · exact .inl rfl
    · exact .inr (.inl rfl)
  | valData b =>
    rw [effectOf]
    obtain ⟨-, e⟩ | ⟨-, e⟩ := appendValue_cases b s <;> rw [e]
    · exact .inl rfl
    · exact .inr (.inl rfl)
  | valLf =>
    rw [effectOf]
    obtain ⟨r, hins, e⟩ | ⟨-, e⟩ := flushField_cases s <;> rw [e]
    · exact .inr (.inr ⟨rfl, hins⟩)
    · exact .inr (.inl rfl)
  | ckLf =>
    rw [effectOf]
    obtain ⟨-, e⟩ | ⟨r, -, ⟨-, e⟩ | ⟨-, e⟩⟩ := finishRecord_cases s <;> rw [e]
    all_goals exact .inr (.inl rfl)
  | hexTerm =>
    rw [effectOf]
    obtain ⟨-, e⟩ | ⟨-, e⟩ := finishHexFrame_cases s <;> rw [e]
    all_goals exact .inr (.inl rfl)
  | hexDigit b =>
    rw [effectOf]
    obtain ⟨-, e⟩ | ⟨-, ⟨-, e⟩ | ⟨-, -, e⟩ | ⟨-, -, e⟩⟩ := takeDigit_cases b s <;> rw [e]
    all_goals exact .inl rfl

/-- R152: the one row that inserts and goes on, VAL.LF, runs for other labels only. -/
theorem noChecksumInRecord_effectOf {i : Instr} {s : State} (h : Ready i s) (hs : s.NoChecksumInRecord) :
    (effectOf i s).NoChecksumInRecord := by
  obtain ⟨-, -, hrow⟩ := h
  obtain ⟨-, hguard, -⟩ := rowApplies_iff.mp hrow
  rw [State.NoChecksumInRecord]
  obtain e | e | ⟨rfl, hins⟩ := effectOf_record i s
  · rwa [e]
  · rw [e, labels_nil]
    exact List.not_mem_nil
  · have hck : s.isCk = false ∧ s.crs = true := by simpa [Instr.guardHolds] using hguard
    obtain ⟨hck, -⟩ := hck
    have hlbuf : CK_LABEL ≠ s.lbuf := fun e => by simp [isCk_iff.mpr e.symm] at hck
    obtain ⟨-, e⟩ | ⟨-, e⟩ := insertField_labels hins <;> rw [e]
    · exact hs
    · rw [List.mem_append, List.mem_singleton, not_or]
      exact ⟨hs, hlbuf⟩

/-- Settles O24: reset empties the record, an edge without a byte keeps it, and a byte runs a row that may run. -/
theorem stepKeepsChecksumOutOfRecord : Obligations.StepKeepsChecksumOutOfRecord := by
  intro s t hs h
  obtain ⟨c, es, -, rfl⟩ | ⟨es, -, -, rfl⟩ | ⟨es, b, hc, hl, rfl⟩ := step_next_cases h
  · exact List.not_mem_nil
  · exact hs
  · exact noChecksumInRecord_effectOf (ready_startStep (ready_withInput es (ready_select hc hl b))) hs

/-! ### The unit that is emitted -/

/-- All that an effect can put on the output register: what stood there, the payload of a valid HEX frame, which is HEX.TERM,
or the record with the field just read and a zero sum, which is CK.LF (R152, R174, R206). -/
theorem effectOf_outUnit (i : Instr) (s : State) :
    (effectOf i s).outUnit = s.outUnit ∨
    (i = .hexTerm ∧ s.hexValid ∧ (effectOf i s).outUnit = some (.hexFrame s.hbuf)) ∨
    (i = .ckLf ∧ s.acc = 0x00 ∧ ∃ r, insertField s.cfg.maxFields s.record s.lbuf s.vbuf = some r ∧
      (effectOf i s).outUnit = some (.record r)) := by
  cases i with
  | idleMark | idlePrint | idleSkip | lblTab | lblTerm | valCr | valBad | valNolf | ckByte | ckCr | ckBad | ckNolf | hexMark
  | hexJunk | hexSkip => exact .inl rfl
  | lblData b =>
    rw [effectOf]
    obtain ⟨-, e⟩ | ⟨-, e⟩ := appendLabel_cases b s <;> rw [e]
    all_goals exact .inl rfl
  | valData b =>
    rw [effectOf]
    obtain ⟨-, e⟩ | ⟨-, e⟩ := appendValue_cases b s <;> rw [e]
    all_goals exact .inl rfl
  | valLf =>
    rw [effectOf]
    obtain ⟨r, -, e⟩ | ⟨-, e⟩ := flushField_cases s <;> rw [e]
    all_goals exact .inl rfl
  | ckLf =>
    rw [effectOf]
    obtain ⟨-, e⟩ | ⟨r, hins, ⟨hvalid, e⟩ | ⟨-, e⟩⟩ := finishRecord_cases s <;> rw [e]
    · exact .inl rfl
    · exact .inr (.inr ⟨rfl, accValid_iff.mp hvalid, r, hins, rfl⟩)
    · exact .inl rfl
  | hexTerm =>
    rw [effectOf]
    obtain ⟨hvalid, e⟩ | ⟨-, e⟩ := finishHexFrame_cases s <;> rw [e]
    · exact .inr (.inl ⟨rfl, hvalid, rfl⟩)
    · exact .inl rfl
  | hexDigit b =>
    obtain ⟨-, e, -⟩ := sameOutputs_takeDigit b s
    exact .inl e

/-- R152, R206: an emitted record comes from CK.LF with a zero sum, and it is the record with the field just read inserted. -/
theorem ckLf_of_exec_record {i : Instr} {s t : State} {r : Record} (h : exec i s = .next t)
    (hunit : t.outUnit = some (.record r)) :
    i = .ckLf ∧ s.acc = 0x00 ∧ insertField s.cfg.maxFields s.record s.lbuf s.vbuf = some r := by
  obtain ⟨-, rfl⟩ := ready_of_exec_next h
  obtain e | ⟨-, -, e⟩ | ⟨hi, hzero, q, hins, e⟩ := effectOf_outUnit i (startStep s)
  · cases hunit.symm.trans e
  · cases hunit.symm.trans e
  · obtain rfl : r = q := by simpa using hunit.symm.trans e
    exact ⟨hi, hzero, hins⟩

/-- R33, R79: where CK.LF may run, the field just read is the Checksum field with its one byte. -/
theorem checksumField_of_ready_ckLf {s : State} (h : Ready .ckLf s) : s.lbuf = CK_LABEL ∧ ∃ x, s.vbuf = [x] := by
  obtain ⟨-, ⟨hshape, -⟩, hrow⟩ := h
  obtain ⟨hst, hguard, -⟩ := rowApplies_iff.mp hrow
  obtain ⟨hck, hcrs⟩ : s.isCk = true ∧ s.crs = true := by simpa [Instr.guardHolds] using hguard
  obtain ⟨-, hone⟩ := (shapeHolds_value hst.symm).mp hshape
  exact ⟨isCk_iff.mp hck, List.length_eq_one_iff.mp ((hone hck).2 hcrs)⟩

/-- Settles O47: the emitted record is the insertion of the Checksum field, which is an appending where the label is new. -/
theorem emittedRecordSumsToZero : Obligations.EmittedRecordSumsToZero := by
  intro i s t r h hunit
  obtain ⟨rfl, hzero, hins⟩ := ckLf_of_exec_record h hunit
  obtain ⟨hready, -⟩ := ready_of_exec_next h
  obtain ⟨hlbuf, x, hvbuf⟩ := checksumField_of_ready_ckLf hready
  obtain ⟨-, ⟨-, ⟨-, -, -, -, hnodup⟩, -⟩, -⟩ := hready
  refine ⟨rfl, hzero, fun hnew => ⟨x, hvbuf, ?_, insertField_nodup hins hnodup⟩⟩
  rw [hlbuf, hvbuf] at hins
  obtain ⟨hold, -⟩ | ⟨-, -, e⟩ | ⟨-, -, e⟩ := insertField_cases s.cfg.maxFields s.record CK_LABEL [x]
  · exact absurd hold hnew
  · exact Option.some.inj (hins.symm.trans e)
  · cases hins.symm.trans e

end Sys2Proof.Machine
end

section
/-! PROOFS for 43_hex_frame_detector.md: the rows that begin, read and end a HEX frame (R171 to R178), that `acc`, `hph` and
`hnib` account for the payload in progress (R172), and what that gives for an emitted frame (R173, R176). What one more digit
does to a payload comes first. -/

namespace Sys2Proof.Machine

/-! ### One more digit of a payload (R172) -/

/-- A digit after complete pairs is left unpaired and decodes to nothing yet. -/
theorem digit_after_pairs {p : ByteSeq} (h : unpaired p = none) (b : Byte) :
    pairs (p ++ [b]) = pairs p ∧ unpaired (p ++ [b]) = some b := by
  induction p using pairs.induct with
  | case1 => exact ⟨rfl, rfl⟩
  | case2 d => cases h
  | case3 c d rest ih =>
    obtain ⟨hpairs, hlast⟩ := ih h
    exact ⟨congrArg (List.cons _) hpairs, hlast⟩

/-- A digit after an unpaired one completes a byte and leaves none unpaired. -/
theorem digit_after_unpaired {p : ByteSeq} {d : Byte} (h : unpaired p = some d) (b : Byte) :
    pairs (p ++ [b]) = pairs p ++ [pairByte (hexval d) (hexval b)] ∧ unpaired (p ++ [b]) = none := by
  induction p using pairs.induct with
  | case1 => cases h
  | case2 c =>
    obtain rfl : c = d := Option.some.inj h
    exact ⟨rfl, rfl⟩
  | case3 c e rest ih =>
    obtain ⟨hpairs, hlast⟩ := ih h
    exact ⟨congrArg (List.cons _) hpairs, hlast⟩

/-- A digit that is not the lone leading one joins the digits that pair up. -/
theorem pairedPart_concat {leading : Bool} {p : ByteSeq} (hlone : ¬ (leading = true ∧ p.length = 0)) (b : Byte) :
    pairedPart leading (p ++ [b]) = pairedPart leading p ++ [b] := by
  cases leading with
  | false => rfl
  | true =>
    cases p with
    | nil => exact absurd ⟨rfl, rfl⟩ hlone
    | cons d rest => rfl

/-- Past the lone leading digit, what a digit adds to the decoded pairs it adds to the decoded payload. -/
theorem dec_concat {leading : Bool} {p w : ByteSeq} {b : Byte} (hlone : ¬ (leading = true ∧ p.length = 0))
    (h : pairs (pairedPart leading p ++ [b]) = pairs (pairedPart leading p) ++ w) :
    dec leading (p ++ [b]) = dec leading p ++ w := by
  cases leading with
  | false => exact h
  | true =>
    cases p with
    | nil => exact absurd ⟨rfl, rfl⟩ hlone
    | cons d rest => exact congrArg (List.cons _) h

/-! ### The account of a payload in progress (R172) -/

/-- Outside READING_HEX there is no payload to account for. -/
theorem hexAccounted_of_ne {s : State} (h : s.st ≠ .readingHex) : s.HexAccounted :=
  fun hst => absurd hst h

/-- R171, R175: an empty payload sums to zero and leaves no digit unpaired. -/
theorem hexAccounted_beginHexFrame (s : State) : (beginHexFrame s).HexAccounted := by
  intro _ _
  rw [beginHexFrame_cfg, beginHexFrame_hbuf]
  cases s.cfg.hexLeadingNibble <;> exact ⟨rfl, rfl, nofun⟩

/-- A digit is taken without leaving the frame (R177). -/
theorem takeDigit_st (b : Byte) (s : State) : (takeDigit b s).st = s.st := by
  obtain ⟨-, e⟩ | ⟨-, ⟨-, e⟩ | ⟨-, -, e⟩ | ⟨-, -, e⟩⟩ := takeDigit_cases b s <;> rw [e]

/-- A digit never makes a bad frame good (R177). -/
theorem hbad_of_takeDigit {b : Byte} {s : State} (h : (takeDigit b s).hbad = false) : s.hbad = false := by
  obtain ⟨-, e⟩ | ⟨hroom, -⟩ := takeDigit_cases b s
  · rw [e] at h; cases h
  · exact (takeDigit_hbad_of_hasRoom b hroom).symm.trans h

/-- R177: the lone digit is summed alone, the first digit of a pair is held unsummed, and the second is summed with the digit
held, which is the unpaired one. -/
theorem hexAccounted_takeDigit (b : Byte) {s : State} (hs : s.HexAccounted) : (takeDigit b s).HexAccounted := by
  intro hst hgood
  rw [takeDigit_st] at hst
  obtain ⟨hacc, hphase, hheld⟩ := hs hst (hbad_of_takeDigit hgood)
  obtain ⟨-, e⟩ | ⟨-, ⟨⟨hlead, hempty⟩, e⟩ | ⟨hlone, hph, e⟩ | ⟨hlone, hph, e⟩⟩ := takeDigit_cases b s <;>
    rw [e] at hgood ⊢ <;> dsimp only
  · cases hgood
  · have hbuf : s.hbuf = [] := List.length_eq_zero_iff.mp hempty
    rw [hlead, hbuf] at hacc hphase ⊢
    rw [hacc, hphase]
    exact ⟨BitVec.add_comm _ _, rfl, nofun⟩
  · have hpaired : unpaired (pairedPart s.cfg.hexLeadingNibble s.hbuf) = none := by simpa [hph] using hphase
    obtain ⟨hpairs, hlast⟩ := digit_after_pairs hpaired b
    rw [pairedPart_concat hlone, hlast, dec_concat (w := []) hlone (by rw [hpairs, List.append_nil]), List.append_nil]
    exact ⟨hacc, rfl, fun d hd => congrArg hexval (Option.some.inj hd)⟩
  · obtain ⟨d, hd⟩ := Option.isSome_iff_exists.mp (hphase.symm.trans hph)
    obtain ⟨hpairs, hlast⟩ := digit_after_unpaired hd b
    rw [pairedPart_concat hlone, hlast, dec_concat hlone hpairs, byteSum_append, ← hacc, hheld d hd]
    exact ⟨by simp [accAdd], rfl, nofun⟩

/-- R174, R205: both ends of a frame lead to IDLE. -/
theorem finishHexFrame_st (s : State) : (finishHexFrame s).st = .idle := by
  obtain ⟨-, e⟩ | ⟨-, e⟩ := finishHexFrame_cases s <;> rw [e]
  · exact complete_st _ s
  · exact discard_st _ s

/-- R122, R143: no row of a text state leads to READING_HEX. -/
theorem effectOf_st_ne_hex_of_text {i : Instr} {s : State} (hi : i.st = .readingLabel ∨ i.st = .readingValue)
    (hst : i.st = s.st) : (effectOf i s).st ≠ .readingHex := by
  obtain e | e | e | e := effectOf_st_of_text hi s <;> rw [e]
  · rw [← hst]
    obtain hi | hi := hi <;> simp [hi]
  all_goals nofun

/-- R172 is kept by every row in the state it belongs to: a row of a text state never leads to READING_HEX, and one of READING_HEX
restarts the payload, takes a digit, marks the frame bad, or ends it. -/
theorem hexAccounted_effectOf {i : Instr} {s : State} (hst : i.st = s.st) (hs : s.HexAccounted) :
    (effectOf i s).HexAccounted := by
  cases i with
  | idleMark => exact hexAccounted_beginHexFrame s
  | hexMark => exact hexAccounted_beginHexFrame (report .hexRestart s)
  | idleSkip | hexSkip => exact hs
  | idlePrint => exact hexAccounted_of_ne nofun
  | hexDigit b => exact hexAccounted_takeDigit b hs
  | hexJunk => exact fun _ hgood => nomatch hgood
  | hexTerm => exact hexAccounted_of_ne (by rw [effectOf, finishHexFrame_st]; nofun)
  | lblTab | lblData | lblTerm => exact hexAccounted_of_ne (effectOf_st_ne_hex_of_text (.inl rfl) hst)
  | valData | valCr | valBad | valLf | valNolf | ckByte | ckCr | ckBad | ckLf | ckNolf =>
    exact hexAccounted_of_ne (effectOf_st_ne_hex_of_text (.inr rfl) hst)

/-- Settles O23: a reset edge leaves READING_HEX, an edge without a byte keeps the account, and a byte runs a row of the state,
which keeps it. -/
theorem stepKeepsHexPayloadAccounted : Obligations.StepKeepsHexPayloadAccounted := by
  intro s t hs h
  obtain ⟨c, es, -, rfl⟩ | ⟨es, -, -, rfl⟩ | ⟨es, b, hc, hl, rfl⟩ := step_next_cases h
  · exact hexAccounted_of_ne nofun
  · exact hs
  · obtain ⟨-, -, hrow⟩ := ready_select hc hl b
    obtain ⟨hrowSt, -⟩ := rowApplies_iff.mp hrow
    exact hexAccounted_effectOf (s := startStep (withInput es s)) hrowSt hs

/-! ### The frame that is emitted (R173, R176) -/

theorem pairs_length (p : ByteSeq) : (pairs p).length = p.length / 2 := by
  induction p using pairs.induct with
  | case1 => rfl
  | case2 d => simp [pairs]
  | case3 c d rest ih => simp only [pairs, List.length_cons, ih]; omega

/-- No digit is left unpaired exactly where the number of digits is even. -/
theorem unpaired_eq_none_iff {p : ByteSeq} : unpaired p = none ↔ p.length % 2 = 0 := by
  induction p using pairs.induct with
  | case1 => simp [unpaired]
  | case2 d => simp [unpaired]
  | case3 c d rest ih => rw [unpaired, ih, List.length_cons, List.length_cons]; omega

section Paired
variable {leading : Bool} {p : ByteSeq} (hne : 1 ≤ p.length) (hpaired : unpaired (pairedPart leading p) = none)
include hne hpaired

/-- A payload whose digits pair up has an even number of digits, with a lone leading digit an odd one. -/
theorem length_mod_two_of_paired : p.length % 2 = if leading then 1 else 0 := by
  have heven := unpaired_eq_none_iff.mp hpaired
  cases leading with
  | false => exact heven
  | true =>
    rw [pairedPart, if_pos rfl, List.length_drop] at heven
    rw [if_pos rfl]
    omega

/-- A payload whose digits pair up and that is not empty decodes to at least one byte. -/
theorem dec_length_pos_of_paired : 1 ≤ (dec leading p).length := by
  cases leading with
  | false =>
    have heven : p.length % 2 = 0 := unpaired_eq_none_iff.mp hpaired
    have hlen : (dec false p).length = p.length / 2 := pairs_length p
    omega
  | true =>
    obtain ⟨d, rest, rfl⟩ := List.exists_cons_of_length_pos hne
    exact Nat.le_add_left 1 _

end Paired

/-- R174, R206: an emitted HEX frame comes from HEX.TERM in a valid frame, and it is the payload read. -/
theorem hexTerm_of_exec_hexFrame {i : Instr} {s t : State} {h : ByteSeq} (hexec : exec i s = .next t)
    (hunit : t.outUnit = some (.hexFrame h)) : i = .hexTerm ∧ s.hexValid ∧ h = s.hbuf := by
  obtain ⟨-, rfl⟩ := ready_of_exec_next hexec
  obtain e | ⟨hi, hvalid, e⟩ | ⟨-, -, r, -, e⟩ := effectOf_outUnit i (startStep s)
  · cases hunit.symm.trans e
  · exact ⟨hi, hvalid, by simpa using hunit.symm.trans e⟩
  · cases hunit.symm.trans e

/-- Settles O48: R33 gives the digits and the capacity, the account of R172 turns the test of R173 into the rest. -/
theorem emittedHexFrameIsValid : Obligations.EmittedHexFrameIsValid := by
  intro i s t h hs hexec hunit
  obtain ⟨rfl, ⟨hgood, hph, hne, htarget⟩, rfl⟩ := hexTerm_of_exec_hexFrame hexec hunit
  obtain ⟨⟨-, ⟨-, ⟨-, -, -, hfit, -⟩, hdigits, -⟩, hrow⟩, -⟩ := ready_of_exec_next hexec
  obtain ⟨hst, -⟩ := rowApplies_iff.mp hrow
  obtain ⟨hacc, hphase, -⟩ := hs hst.symm hgood
  have hpaired : unpaired (pairedPart s.cfg.hexLeadingNibble s.hbuf) = none := by simpa [hph] using hphase
  exact ⟨hdigits, dec_length_pos_of_paired hne hpaired, hacc.symm.trans htarget, length_mod_two_of_paired hne hpaired, hfit⟩

/-! ### Where the rows of READING_HEX lead -/

/-- R170: of the rows of READING_HEX, HEX.TERM leads to IDLE and every other one stays. -/
theorem effectOf_st_of_hex {i : Instr} {s : State} (hi : i.st = .readingHex) (hs : s.st = .readingHex) :
    ((effectOf i s).st = .readingHex ∧ i ≠ .hexTerm) ∨ ((effectOf i s).st = .idle ∧ i = .hexTerm) := by
  cases i with
  | hexTerm => exact .inr ⟨finishHexFrame_st s, rfl⟩
  | hexMark => exact .inl ⟨rfl, nofun⟩
  | hexDigit b => exact .inl ⟨(takeDigit_st b s).trans hs, nofun⟩
  | hexJunk | hexSkip => exact .inl ⟨hs, nofun⟩
  | _ => cases hi

/-- Settles O49: an instruction that answers from READING_HEX is one of its rows. -/
theorem onlyTheTerminatorLeavesReadingHex : Obligations.OnlyTheTerminatorLeavesReadingHex := by
  intro i s t h hst
  obtain ⟨⟨-, -, hrow⟩, rfl⟩ := ready_of_exec_next h
  obtain ⟨hrowSt, -⟩ := rowApplies_iff.mp hrow
  exact effectOf_st_of_hex (s := startStep s) (hrowSt.trans hst) hst

/-! ### The rows of a HEX frame -/

/-- Settles O26: the equation is `exec_next` with the effect of R171 on the state with its outputs at rest. -/
theorem idleMarkBeginsHexFrame : Obligations.IdleMarkBeginsHexFrame :=
  fun _ h => exec_next h

/-- Settles O38: the two ends of R174, told apart by the test of R173, which reads nothing that `startStep` writes. -/
theorem hexTermEmitsOrDiscards : Obligations.HexTermEmitsOrDiscards := by
  intro s h
  rw [exec_next h, effectOf]
  obtain ⟨hvalid, e⟩ | ⟨hinvalid, e⟩ := finishHexFrame_cases (startStep s) <;> rw [e]
  · exact congrArg _ (if_pos hvalid).symm
  · exact congrArg _ (if_neg hinvalid).symm

/-- Settles O39: the equation is `exec_next` with the effect of R175, whose report is all that the outputs show. -/
theorem hexMarkRestartsFrame : Obligations.HexMarkRestartsFrame :=
  fun _ h => exec_next h

theorem pairByte_toNat (hi lo : Nibble) : (pairByte hi lo).toNat = hi.toNat * 16 + lo.toNat := by
  rw [pairByte, BitVec.toNat_append, ← Nat.shiftLeft_add_eq_or_of_lt lo.isLt, Nat.shiftLeft_eq]

/-- R11: the byte `{hi, lo}` is `hi * 16 + lo`. -/
theorem pairByte_eq (hi lo : Nibble) : pairByte hi lo = zext8 hi * 16 + zext8 lo := by
  have hval := pairByte_toNat hi lo
  have hhi := zext8_toNat hi
  have hlo := zext8_toNat lo
  bv_omega

/-- Settles O40: the four cases of R177, and `startStep` writes nothing that their tests read. -/
theorem hexDigitAssemblesBytes : Obligations.HexDigitAssemblesBytes := by
  intro b s h
  rw [exec_next h, effectOf]
  obtain ⟨hfull, e⟩ | ⟨hroom, hcase⟩ := takeDigit_cases b (startStep s)
  · rw [startStep_cfg, startStep_hbuf] at hfull
    rw [e, if_neg (by simp [hfull])]; rfl
  · rw [startStep_cfg, startStep_hbuf] at hroom
    simp only [startStep_cfg, startStep_hbuf, startStep_hph, List.length_eq_zero_iff] at hcase
    rw [if_pos hroom]
    obtain ⟨hlone, e⟩ | ⟨hlone, hph, e⟩ | ⟨hlone, hph, e⟩ := hcase <;> rw [e]
    · rw [if_pos hlone]; rfl
    · rw [if_neg hlone, if_pos hph]; rfl
    · rw [if_neg hlone, if_neg (by simp [hph]), pairByte_eq]; rfl

/-- Settles O41: the equation is `exec_next` with the effect of R178 on the state with its outputs at rest. -/
theorem hexJunkMarksFrameBad : Obligations.HexJunkMarksFrameBad :=
  fun _ _ h => exec_next h

end Sys2Proof.Machine
end

section
/-! PROOFS for 44_frame_decoder.md: what one edge does (R200, R201) and that it does not read the edges behind it (R202), the
rows that start a record and that skip (R210, R211), which rows emit (R206), and the output of a stream as the limit over its
finite prefixes (R212). -/

namespace Sys2Proof.Machine

/-! ### One edge -/

/-- A step runs the instruction that its edge leads to. -/
theorem step_of_onEdge_run {s t : State} {e : Edge} {rest : List Edge} {i : Instr} (hi : s.input = e :: rest)
    (h : onEdge e (withInput rest s) = .run i t) : step s = exec i t := by
  have hfetch : fetch s = .run i t := by rw [fetch, hi]; exact h
  rw [step, hfetch]

/-- A step answers the state that its edge holds. -/
theorem step_of_onEdge_hold {s t : State} {e : Edge} {rest : List Edge} (hi : s.input = e :: rest)
    (h : onEdge e (withInput rest s) = .hold t) : step s = .next t := by
  have hfetch : fetch s = .hold t := by rw [fetch, hi]; exact h
  rw [step, hfetch]

/-- R200: without reset, an edge that offers no byte holds a legal state. -/
theorem onEdge_noByte {e : Edge} {s : State} (hr : e.rst = false) (ho : e.offers = []) (hg : e.cfg.getD s.cfg = s.cfg)
    (hc : s.cfg.Admitted) (hl : s.Legal) : onEdge e s = .hold s := by
  rw [onEdge_noReset (by simp [ho]) hr, runEdge, if_pos hg, if_pos hc, if_pos hl, ho]

/-- Settles O12: the edge holds the state from which it is taken. -/
theorem edgeWithoutByteChangesNothing : Obligations.EdgeWithoutByteChangesNothing := by
  intro s e rest hi hr ho hg hc hl
  have hhold : onEdge e (withInput rest s) = .hold (withInput rest s) :=
    onEdge_noByte hr ho hg hc ((legal_withInput rest s).mpr hl)
  exact step_of_onEdge_hold hi hhold

/-- Settles O13: an empty input is an idle edge, which holds the state. -/
theorem emptyInputChangesNothing : Obligations.EmptyInputChangesNothing := by
  intro s
  refine ⟨fun hi hc hl => ?_, run_nil s⟩
  have hhold : fetch s = .hold s := by rw [fetch, hi]; exact onEdge_noByte rfl rfl rfl hc hl
  rw [step, hhold]

/-- Settles O14: the decoder answers the dispatch of the state and the byte, which is the row that the step runs. -/
theorem stepRunsTheDecodedInstruction : Obligations.StepRunsTheDecodedInstruction := by
  intro s e rest b i hi hr ho hg hc hl hdec
  rw [decode_opWord hc, Except.ok.injEq] at hdec
  subst hdec
  exact step_byte hi hr ho hg hc hl

/-! ### A step reads the next edge only (R50, R202) -/

/-- What an edge leads to, with other edges to come. -/
def fetchedWithInput (es : List Edge) : Fetched → Fetched
  | .run i s => .run i (withInput es s)
  | .hold s => .hold (withInput es s)
  | .stop r => .stop r

/-- The outcome of a step, with other edges to come. -/
def resultWithInput (es : List Edge) : Result → Result
  | .next s => .next (withInput es s)
  | .fault r => .fault r
  | .refused r => .refused r

theorem resetEdge_withInput (e : Edge) (es : List Edge) (s : State) :
    resetEdge e (withInput es s) = fetchedWithInput es (resetEdge e s) := by
  rw [resetEdge, resetEdge, withInput_cfg]
  split <;> rfl

theorem runEdge_withInput (e : Edge) (es : List Edge) (s : State) :
    runEdge e (withInput es s) = fetchedWithInput es (runEdge e s) := by
  simp only [runEdge, withInput_cfg, withInput_st, guard_withInput, legal_withInput]
  repeat' split
  all_goals rfl

/-- No edge reads the edges behind it. -/
theorem onEdge_withInput (e : Edge) (es : List Edge) (s : State) :
    onEdge e (withInput es s) = fetchedWithInput es (onEdge e s) := by
  rw [onEdge, onEdge]
  split
  · rfl
  · split
    · exact resetEdge_withInput e es s
    · exact runEdge_withInput e es s

/-- No instruction reads the edges to come, whether it completes or is refused. -/
theorem exec_withInput (i : Instr) (es : List Edge) (s : State) :
    exec i (withInput es s) = resultWithInput es (exec i s) := by
  obtain ⟨hready, e⟩ | ⟨hc, e⟩ | ⟨hc, hl, e⟩ | ⟨hc, hl, hrow, e⟩ := transition_cases i (effectOf i) s <;>
    rw [exec_eq_transition i s, e]
  · rw [exec_next (ready_withInput es hready), effectOf_withInput]; rfl
  · exact exec_configRefused (s := withInput es s) hc i
  · exact exec_invariantBroken (s := withInput es s) hc (mt (legal_withInput es s).mp hl) i
  · exact exec_rowNotSelected hc ((legal_withInput es s).mpr hl) hrow

/-- With other edges behind the next one a step has the same outcome, those edges still to come. -/
theorem step_withInput_later {s : State} {e : Edge} {rest : List Edge} (hi : s.input = e :: rest) (later : List Edge) :
    step (withInput (e :: later) s) = resultWithInput later (step s) := by
  have hi' : (withInput (e :: later) s).input = e :: later := rfl
  have hlater : onEdge e (withInput later (withInput (e :: later) s)) =
      fetchedWithInput later (onEdge e (withInput rest s)) := onEdge_withInput e later (withInput rest s)
  cases hedge : onEdge e (withInput rest s) with
  | run i t =>
    rw [hedge] at hlater
    rw [step_of_onEdge_run hi hedge, step_of_onEdge_run hi' hlater, exec_withInput]
  | hold t =>
    rw [hedge] at hlater
    rw [step_of_onEdge_hold hi hedge, step_of_onEdge_hold hi' hlater, resultWithInput]
  | stop r =>
    rw [hedge] at hlater
    rw [step_of_onEdge_stop hi hedge, step_of_onEdge_stop hi' hlater, resultWithInput]

/-- Settles O18: `step_withInput_later`, read for each outcome. -/
theorem stepReadsOnlyTheNextEdge : Obligations.StepReadsOnlyTheNextEdge := by
  intro s e rest later hi
  have hlater := step_withInput_later hi later
  exact ⟨fun t h => hlater.trans (congrArg _ h), fun r h => hlater.trans (congrArg _ h)⟩

/-! ### The rows of IDLE, and the rows that skip -/

/-- Settles O27: the equation is `exec_next` with the effect of R210 on the state with its outputs at rest. -/
theorem idlePrintStartsRecord : Obligations.IdlePrintStartsRecord :=
  fun _ _ h => exec_next h

/-- Settles O28: both rows have no effect, so `exec_next` leaves the state with its outputs at rest. -/
theorem skippedBytesChangeNothing : Obligations.SkippedBytesChangeNothing :=
  fun _ _ => ⟨fun h => exec_next h, fun h => exec_next h⟩

theorem ready_idleSkip {s : State} {b : Byte} (hc : s.cfg.Admitted) (hl : s.Legal) (hst : s.st = .idle)
    (hb : icls s.cfg b = .skip) : Ready (.idleSkip b) s :=
  ⟨hc, hl, rowApplies_iff.mpr ⟨hst.symm, rfl, beq_iff_eq.mpr hb⟩⟩

/-- Settles O57, by induction on the noise: each byte only puts the outputs at rest, and the state stays a legal one of IDLE. -/
theorem skippedNoiseEmitsNothing : Obligations.SkippedNoiseEmitsNothing := by
  intro s noise
  induction noise generalizing s with
  | nil => exact fun _ _ _ _ => ⟨s, run_nil s, rfl⟩
  | cons b noise ih =>
    intro hc hl hst hskip
    rw [List.all_cons, Bool.and_eq_true, beq_iff_eq] at hskip
    obtain ⟨hb, hrest⟩ := hskip
    have hready := ready_idleSkip hc hl hst hb
    obtain ⟨-, hl', -⟩ := ready_startStep hready
    obtain ⟨t, hrun, ht⟩ := ih (startStep s) hc hl' hst hrest
    exact ⟨t, (run_cons_of_ready hready rfl rfl rfl noise).trans hrun, ht⟩

/-! ### The rows that emit -/

/-- Settles O46: `out_valid` is 1 only where a unit stands, and the two rows are all that put one there. -/
theorem onlyCkLfAndHexTermEmit : Obligations.OnlyCkLfAndHexTermEmit := by
  intro i s t h hvalid
  obtain ⟨-, rfl⟩ := ready_of_exec_next h
  obtain ⟨hagree, -⟩ := outputsAgree_effectOf i s
  obtain hnone | ⟨hi, -, hunit⟩ | ⟨hi, -, r, -, hunit⟩ := effectOf_outUnit i (startStep s)
  · rw [hagree, hnone, startStep_outUnit] at hvalid
    cases hvalid
  · exact .inr ⟨hi, _, hunit⟩
  · exact .inl ⟨hi, r, hunit⟩

/-! ### The output of a stream (R212) -/

/-- R201: a byte fed in a legal state completes, in a legal state, with the inputs kept. -/
theorem feed_completes {s : State} (hc : s.cfg.Admitted) (hl : s.Legal) (b : Byte) :
    ∃ t, feed s b = .next t ∧ t.Legal ∧ t.cfg = s.cfg ∧ t.input = s.input := by
  obtain ⟨hcfg, hinput⟩ := effectOf_inputs (select s.cfg s.st s.guard b) (startStep s)
  exact ⟨_, feed_legal hc hl b, legal_effectOf (ready_startStep (ready_select hc hl b)), hcfg, hinput⟩

/-- R213: the run of every finite stream from a legal state completes, in a legal state, with the inputs kept. -/
theorem run_completes {s : State} (hc : s.cfg.Admitted) (hl : s.Legal) (bs : List Byte) :
    ∃ t us, run s bs = .next (t, us) ∧ t.Legal ∧ t.cfg = s.cfg ∧ t.input = s.input := by
  induction bs generalizing s with
  | nil => exact ⟨s, [], run_nil s, hl, rfl, rfl⟩
  | cons b bs ih =>
    obtain ⟨m, hfeed, hml, hmcfg, hminput⟩ := feed_completes hc hl b
    obtain ⟨t, us, hrun, htl, htcfg, htinput⟩ := ih (hmcfg ▸ hc) hml
    exact ⟨t, _, run_cons_next hfeed hrun, htl, htcfg.trans hmcfg, htinput.trans hminput⟩

/-- The units of a longer stream begin with those of a shorter one. -/
theorem units_prefix_of_prefix {s t u : State} {p q : List Byte} {us vs : List OutUnit} (hpq : p <+: q)
    (hp : run s p = .next (t, us)) (hq : run s q = .next (u, vs)) : us <+: vs := by
  obtain ⟨rest, rfl⟩ := hpq
  rw [run_append hp] at hq
  cases hrest : run t rest with
  | next m => rw [hrest] at hq; cases hq; exact List.prefix_append us m.2
  | fault | refused => rw [hrest] at hq; cases hq

/-- Of two finite prefixes of a stream, the longer has the units of the shorter first. -/
theorem units_prefix_of_le {s t u : State} {stream : InputStream} {m n : Nat} {us vs : List OutUnit} (hmn : m ≤ n)
    (hm : run s (stream.first m) = .next (t, us)) (hn : run s (stream.first n) = .next (u, vs)) : us <+: vs :=
  units_prefix_of_prefix (first_prefix hmn stream) hm hn

/-- A list that begins with another has its units at the same places. -/
theorem getElem?_of_prefix {us vs : List OutUnit} (h : us <+: vs) {k : Nat} {u : OutUnit} (hk : us[k]? = some u) :
    vs[k]? = some u := by
  obtain ⟨hlt, rfl⟩ := List.getElem?_eq_some_iff.mp hk
  exact List.prefix_iff_getElem?.mp h k hlt

/-- A place of the output holds one unit at most: of two prefixes, one has the units of the other first. -/
theorem outputAt_unique {s : State} {stream : InputStream} {k : Nat} {u v : OutUnit} (hu : outputAt s stream k u)
    (hv : outputAt s stream k v) : u = v := by
  obtain ⟨m, _, us, hm, hus⟩ := hu
  obtain ⟨n, _, vs, hn, hvs⟩ := hv
  obtain hmn | hnm := Nat.le_total m n
  · exact Option.some.inj ((getElem?_of_prefix (units_prefix_of_le hmn hm hn) hus).symm.trans hvs)
  · exact Option.some.inj (hus.symm.trans (getElem?_of_prefix (units_prefix_of_le hnm hn hm) hvs))

/-- No place of the output is skipped: a list of units has every earlier place. -/
theorem outputAt_earlier {s : State} {stream : InputStream} {j k : Nat} {u : OutUnit} (hjk : j ≤ k)
    (hu : outputAt s stream k u) : ∃ v, outputAt s stream j v := by
  obtain ⟨n, t, us, hrun, hk⟩ := hu
  obtain ⟨hlt, -⟩ := List.getElem?_eq_some_iff.mp hk
  have hj : j < us.length := Nat.lt_of_le_of_lt hjk hlt
  exact ⟨us[j], n, t, us, hrun, List.getElem?_eq_getElem hj⟩

/-- The output of a finite stream is the list of units of its run. -/
theorem outputAt_finite_iff {s t : State} {bs : List Byte} {us : List OutUnit} (h : run s bs = .next (t, us)) (k : Nat)
    (u : OutUnit) : outputAt s (.finite bs) k u ↔ us[k]? = some u := by
  constructor
  · rintro ⟨n, m, vs, hrun, hk⟩
    exact getElem?_of_prefix (units_prefix_of_prefix (List.take_prefix n bs) hrun h) hk
  · intro hk
    exact ⟨bs.length, t, us, by rw [first_finite_length, h], hk⟩

/-- Settles O56: the runs of all finite prefixes complete, and their units extend one another. -/
theorem outputIsTheLimitOfFinitePrefixes : Obligations.OutputIsTheLimitOfFinitePrefixes := by
  intro s stream hc hl
  refine ⟨fun n => ?_, fun m n t u us vs => units_prefix_of_le, fun k u v => outputAt_unique,
    fun j k u => outputAt_earlier, ?_⟩
  · obtain ⟨t, us, hrun, -⟩ := run_completes hc hl (stream.first n)
    exact ⟨t, us, hrun⟩
  · rintro bs t us rfl hrun k u
    exact outputAt_finite_iff hrun k u

end Sys2Proof.Machine
end

section
/-! PROOFS for 60_exceptions.md: nothing stops the core (R240), neither a stream of bytes (R213) nor an environment that keeps
its contract, and the cause codes (R242). -/

namespace Sys2Proof.Machine

/-! ### An edge that keeps the contract (R274, R281, R283) -/

/-- R270, R274: under an admitted configuration an edge with reset leads to the reset state. -/
theorem resetEdge_hold {e : Edge} {s : State} (hc : (e.cfg.getD s.cfg).Admitted) :
    resetEdge e s = .hold (State.resetWith (e.cfg.getD s.cfg) s.input) := by
  rw [resetEdge, if_pos hc]

section Edge
variable {s : State} {e : Edge} {rest : List Edge}

/-- R270, R273: a step at such an edge answers the reset state, with the configuration the port shows and the edges behind. -/
theorem step_reset (hi : s.input = e :: rest) (hr : e.rst = true) (h1 : e.offers.length ≤ 1)
    (hc : (e.cfg.getD s.cfg).Admitted) : step s = .next (State.resetWith (e.cfg.getD s.cfg) rest) :=
  step_of_onEdge_hold hi ((onEdge_reset h1 hr _).trans (resetEdge_hold hc))

/-- R200: an edge that keeps the contract is answered, be it a reset, no byte or one byte; the edge is taken from the input and
the configuration is the one the port shows. -/
theorem step_of_edgeOk (hi : s.input = e :: rest) (hc : s.cfg.Admitted) (hl : s.Legal) (he : edgeOk s.cfg e) :
    ∃ t, step s = .next t ∧ t.cfg = e.cfg.getD s.cfg ∧ t.input = rest := by
  obtain ⟨h1, hkept, hshown⟩ := he
  cases hr : e.rst with
  | true => exact ⟨_, step_reset hi hr h1 hshown, rfl, rfl⟩
  | false =>
    have hg := hkept hr
    match ho : e.offers, h1 with
    | [], _ => exact ⟨_, edgeWithoutByteChangesNothing s e rest hi hr ho hg hc hl, hg.symm, rfl⟩
    | [b], _ =>
      obtain ⟨t, hstep, hinput, hcfg⟩ := everyByteCompletesInEveryLegalState s e rest b hi hr ho hg hc hl
      exact ⟨t, hstep, hcfg.trans hg.symm, hinput⟩

end Edge

/-- Settles O21: with no edge left the state stays as it is; an edge that keeps the contract is answered, every answered state
is legal under an admitted configuration, and the edges behind keep the contract under the configuration then in force. -/
theorem safeStatesStepToSafeStates : Obligations.SafeStatesStepToSafeStates := by
  rintro s ⟨hc, hl, hin⟩
  cases hi : s.input with
  | nil => exact ⟨s, (emptyInputChangesNothing s).1 hi hc hl, hc, hl, hin⟩
  | cons e rest =>
    rw [hi] at hin
    obtain ⟨he, hrest⟩ := hin
    obtain ⟨t, hstep, hcfg, hinput⟩ := step_of_edgeOk hi hc hl he
    obtain ⟨htc, htl⟩ := stepAnswersOnlyLegalStates s t hstep
    have htin : inputOk t.cfg t.input := by rw [hcfg, hinput]; exact hrest
    exact ⟨t, hstep, htc, htl, htin⟩

/-! ### Streams of bytes (R213) and cause codes (R242) -/

/-- Settles O17: `run_completes`, the induction over the bytes in which each byte is fed in a legal state. -/
theorem noByteStreamStopsTheCore : Obligations.NoByteStreamStopsTheCore :=
  fun _ bs hc hl => run_completes hc hl bs

/-- Settles O44: each clause is the line of R242's table in the definition of `causeCode`. -/
theorem causeCodesOfTheTable : Obligations.CauseCodesOfTheTable :=
  ⟨rfl, rfl, rfl, rfl, rfl, rfl, rfl, rfl, rfl, rfl⟩

end Sys2Proof.Machine
end

section
/-! PROOFS for 70_reset_and_hazards.md: the reset values and the edge with reset (R270, R272, R273), that the reset state meets
every invariant, and that a discard and an emit lead back to it (R271). -/

namespace Sys2Proof.Machine

/-! ### The core is reset after a discard or an emit (R271) -/

/-- All that an effect can do, by what becomes of the unit in progress: nothing new is shown to the outside, a stale HEX frame
is reported, which is HEX.MARK (R175), the unit is discarded (R205), or it is completed (R152, R174). -/
theorem effectOf_ends (i : Instr) (s : State) :
    SameOutputs (effectOf i s) s ∨ i = .hexMark ∨ (∃ c, effectOf i s = discard c s) ∨ ∃ u, effectOf i s = complete u s := by
  cases i with
  | idleMark | idlePrint | idleSkip | lblTab | valCr | ckByte | ckCr | hexJunk | hexSkip => exact .inl SameOutputs.rfl
  | hexDigit b => exact .inl (sameOutputs_takeDigit b s)
  | hexMark => exact .inr (.inl rfl)
  | lblTerm | valBad | valNolf | ckBad | ckNolf => exact .inr (.inr (.inl ⟨_, rfl⟩))
  | lblData b =>
    obtain ⟨-, e⟩ | ⟨-, e⟩ := appendLabel_cases b s
    · exact .inl (by rw [effectOf, e]; exact SameOutputs.rfl)
    · exact .inr (.inr (.inl ⟨_, e⟩))
  | valData b =>
    obtain ⟨-, e⟩ | ⟨-, e⟩ := appendValue_cases b s
    · exact .inl (by rw [effectOf, e]; exact SameOutputs.rfl)
    · exact .inr (.inr (.inl ⟨_, e⟩))
  | valLf =>
    obtain ⟨r, -, e⟩ | ⟨-, e⟩ := flushField_cases s
    · exact .inl (by rw [effectOf, e]; exact SameOutputs.rfl)
    · exact .inr (.inr (.inl ⟨_, e⟩))
  | ckLf =>
    obtain ⟨-, e⟩ | ⟨r, -, ⟨-, e⟩ | ⟨-, e⟩⟩ := finishRecord_cases s
    · exact .inr (.inr (.inl ⟨_, e⟩))
    · exact .inr (.inr (.inr ⟨_, e⟩))
    · exact .inr (.inr (.inl ⟨_, e⟩))
  | hexTerm =>
    obtain ⟨-, e⟩ | ⟨-, e⟩ := finishHexFrame_cases s
    · exact .inr (.inr (.inr ⟨_, e⟩))
    · exact .inr (.inr (.inl ⟨_, e⟩))

/-- Settles O50: a row that emits, or that drops a unit and is not HEX.MARK, ends in `complete` or in `discard`, and from the
resting outputs of `startStep` both lead to the reset state. -/
theorem afterDiscardOrEmitTheCoreIsReset : Obligations.AfterDiscardOrEmitTheCoreIsReset := by
  intro i s t h hends
  obtain ⟨-, rfl⟩ := ready_of_exec_next h
  obtain ⟨hvalid, -, hdrop, -⟩ | rfl | ⟨c, e⟩ | ⟨u, e⟩ := effectOf_ends i (startStep s)
  · rw [hvalid, hdrop] at hends
    obtain hemits | ⟨hdrops, -⟩ := hends
    · cases hemits
    · cases hdrops
  · obtain hemits | ⟨-, hother⟩ := hends
    · cases hemits
    · exact absurd rfl hother
  · rw [e, discard_startStep]
  · rw [e, complete_startStep]

/-! ### The reset values, and the edge with reset (R270, R272, R273) -/

/-- Settles O10: the reset state is `State.resetWith`, whose elements are its field lemmas. -/
theorem resetStateHoldsResetValues : Obligations.ResetStateHoldsResetValues := by
  simp [Obligations.ResetStateHoldsResetValues, State.reset]

/-- Settles O11: the step at such an edge answers `State.resetWith` of the port's configuration and the edges behind. -/
theorem resetEdgeResetsFromAnyState : Obligations.ResetEdgeResetsFromAnyState := by
  intro s e rest hi hr h1 hc
  exact ⟨_, step_reset hi hr h1 hc, by simp⟩

/-! ### The reset state meets the invariants -/

/-- With an admitted configuration and inputs that keep the contract, the reset state is safe. -/
theorem safe_resetWith {c : Cfg} {es : List Edge} (hc : c.Admitted) (hin : inputOk c es) : (State.resetWith c es).Safe :=
  ⟨hc, legal_resetWith c es, hin⟩

/-- Settles O25: the reference configuration is admitted and no edge is to come; the outputs are at rest, no HEX frame is
being read, and the record is empty. -/
theorem resetStateMeetsTheInvariants : Obligations.ResetStateMeetsTheInvariants :=
  ⟨safe_resetWith admitted_ref trivial, outputsAgree_resetWith _ _, hexAccounted_of_ne nofun, List.not_mem_nil⟩

end Sys2Proof.Machine
end
